-- ==== Sys2Proof/Word.lean ====
section
/-! DEFINITION. The unit of data on every medium of the hardware (spec/20_memory.md R61): the byte. -/

namespace Sys2Proof

/-- "The byte is 8 bits on all of them" (20 R61). -/
abbrev Byte := BitVec 8

end Sys2Proof
end

