-- ==== Sys2Proof/Config.lean ====
section
/-! DEFINITION. Constants, the configuration record and the free values (spec/00_scope.md R9 to R13,
spec/10_state.md R52). A legal value of every parameter is admitted; see `Machine.configLegal`. -/

namespace Sys2Proof

/-! ### Constants that stand in a type or in an encoding (00 R9) -/

/-- `TICK_US`: one tick is one microsecond (00 R9, R15). -/
def Config.tickUs : Nat := 1
/-- `ZONE_DIGIT_LO`, the character '1' (00 R9). -/
def Config.zoneDigitLo : Byte := 0x31
/-- `ZONE_DIGIT_HI`, the character '8' (00 R9). -/
def Config.zoneDigitHi : Byte := 0x38
/-- Bytes in `TXMSG`: the longest line the format can produce (10 R37, 44 R190). -/
def Config.txMsgSize : Nat := 45

/-- The numbers of the source and the parameters of 00_scope.md R9 to R12, "fixed before reset and not writable
by any operation of the hardware" (10 R52); each number of the source is a field, "so that a later audit changes
a field and no rule" (00 R13; log 5). -/
structure Config where
  /-- `N_BITS`: the high pulses a read counts (00 R9). The width of `FRAME` is its register's own (10 R26). -/
  nBits : Nat
  /-- `N_ZONES`: the largest zone number the host sends (00 R9). What a value other than 8 does is DESIGN CHOICE
  (unsafe, log 33). -/
  nZones : Nat
  /-- The build-time value of `UBRR` (00 R9, 10 R40). -/
  ubrr : Nat
  /-- The source's bound that `TIMER_BOUND_US` must exceed (00 R11, R13). -/
  pulseMaxUs : Nat
  /-- The source's least length of the start signal (00 R11, R13). -/
  tStartMinUs : Nat
  /-- The nominal width of an acknowledgement pulse; it appears in the sensor's premise only (00 R13, 41 R135). -/
  nominalAckUs : Nat
  /-- The least nominal width of a '0' pulse; in the premise only (00 R13, 41 R135). -/
  nominalZeroLoUs : Nat
  /-- The largest nominal width of a '0' pulse; in the premise only (00 R13, 41 R135). -/
  nominalZeroHiUs : Nat
  /-- The nominal width of a '1' pulse; in the premise only (00 R13, 41 R135). -/
  nominalOneUs : Nat
  /-- `BIT_THRESHOLD_US` (00 R10). -/
  bitThresholdUs : Nat
  /-- `TIMER_BOUND_US`, above `pulseMaxUs` (00 R11). -/
  timerBoundUs : Nat
  /-- `T_START_US`, at least `tStartMinUs` (00 R11). -/
  tStartUs : Nat
  /-- `HOST_DEADLINE_US` (00 R9). -/
  hostDeadlineUs : Nat
  /-- `BLIND_WAIT_US` (00 R10). -/
  blindWaitUs : Nat
  /-- `DISP_FLAG` of the command `HOST_STATUS` (00 R10, 45 R201). -/
  dispStatus : Bool
  /-- `DISP_FLAG` of the command `HOST_ZONE(n)` (00 R10, 45 R201). -/
  dispZone : Bool
  /-- `RX_BUF_SIZE`, at least 1 (00 R11). -/
  rxBufSize : Nat
  /-- `HOST_FIFO_DEPTH`, at least `RX_BUF_SIZE` (00 R12). -/
  hostFifoDepth : Nat
  /-- `STATUS_REQ_BYTE`, no zone digit (00 R12). -/
  statusReqByte : Byte
  /-- `LATCH_PULSE_US`, at least 1 (00 R11). -/
  latchPulseUs : Nat
  /-- `CLK_PULSE_US`, at least 1 (00 R12). -/
  clkPulseUs : Nat
  /-- `BYTE_TIME_US`, at least 1 (00 R12). -/
  byteTimeUs : Nat
  /-- `ADC_TIME_US` (00 R12). -/
  adcTimeUs : Nat
  /-- `PRINTABLE_LO` (00 R12). -/
  printableLo : Byte
  /-- `PRINTABLE_HI` (00 R12). -/
  printableHi : Byte
  /-- `TEMP_RESET_TENTHS + 1525`: the 3051 values -1525..1525 and no other (00 R12). -/
  tempResetIdx : Fin 3051
  /-- `SENSOR_MIN_INTERVAL_US`; it appears in a hazard only (00 R12, 70 R270). -/
  sensorMinIntervalUs : Nat
deriving DecidableEq, Repr

/-- `TEMP_RESET_TENTHS`, in -1525..1525 (00 R12). -/
def Config.tempResetTenths (c : Config) : Int := (c.tempResetIdx.val : Int) - 1525

/-- The two directions of the serial line (43 R166). -/
inductive Dir where
  /-- host to device -/
  | h2d
  /-- device to host -/
  | d2h
deriving DecidableEq, Repr

/-- A wall-clock date and time, the answer of `env.clock` (10 R49); month and day count from 0, and every
field stays in the range its two or four digits can show (30 R90, log 26). -/
structure DateTime where
  month0 : Fin 12
  day0 : Fin 31
  year : Fin 10000
  hour : Fin 24
  minute : Fin 60
  second : Fin 60
deriving DecidableEq, Repr, Inhabited

/-! ### Free values: constants without a body, so that no proof can know them -/

/-- `BYTE_TIME_US - 1`: the spec gives the parameter no default (00 R12; log 3). -/
opaque Config.freeByteTime : Nat
/-- `TEMP_RESET_TENTHS + 1525`: the spec gives the parameter no default (00 R12; log 4). -/
opaque Config.freeTempReset : Fin 3051
/-- `env.sensor_low(t)`: true while SENSOR pulls the wire low (10 R48; log 2). -/
opaque Config.envSensorLow : Nat → Bool
/-- `env.chan(dir, b, t)`: `none` is `lost`, `some c` is `byte(c)` (43 R166; log 2). -/
opaque Config.envChan : Dir → Byte → Nat → Option Byte
/-- `env.moisture(t)` (10 R47; log 2). -/
opaque Config.envMoisture : Nat → Byte
/-- `env.port_available(t)` (10 R49; log 2). -/
opaque Config.envPortAvailable : Nat → Bool
/-- `env.host_wr_ok(t)` (10 R49; log 2). -/
opaque Config.envHostWrOk : Nat → Bool
/-- `env.clock(t)` (10 R49; log 2). -/
opaque Config.envClock : Nat → DateTime

/-- The reference values and defaults of 00 R9 to R12; the two parameters without a default are free. -/
def Config.reference : Config where
  nBits := 40
  nZones := 8
  ubrr := 47
  pulseMaxUs := 100
  tStartMinUs := 1000
  nominalAckUs := 80
  nominalZeroLoUs := 26
  nominalZeroHiUs := 28
  nominalOneUs := 70
  bitThresholdUs := 30
  timerBoundUs := 255
  tStartUs := 1000
  hostDeadlineUs := 1000000
  blindWaitUs := 1000000
  dispStatus := true
  dispZone := false
  rxBufSize := 64
  hostFifoDepth := 64
  statusReqByte := 0x30
  latchPulseUs := 1
  clkPulseUs := 1
  byteTimeUs := Config.freeByteTime + 1
  adcTimeUs := 0
  printableLo := 0x20
  printableHi := 0x7E
  tempResetIdx := Config.freeTempReset
  sensorMinIntervalUs := 1000000

end Sys2Proof
end

