-- ==== Sys2Proof/Syntax.lean ====
section
/-! DEFINITION. The commands of spec/opcode_table.json, one constructor for each mnemonic (the eight
STATUS_ONLY rows are one instruction, 44 R199, whose operand is the byte), and the code that carries one. -/

namespace Sys2Proof

/-- Request-byte instructions of the device (30 R84) and command keys of the host (30 R93). -/
inductive Instr where
  /-- `ZONE_SELECT_1`: request byte 0x31 (44 R191). -/
  | zoneSelect1
  /-- `ZONE_SELECT_2`: request byte 0x32 (44 R192). -/
  | zoneSelect2
  /-- `ZONE_SELECT_3`: request byte 0x33 (44 R193). -/
  | zoneSelect3
  /-- `ZONE_SELECT_4`: request byte 0x34 (44 R194). -/
  | zoneSelect4
  /-- `ZONE_SELECT_5`: request byte 0x35 (44 R195). -/
  | zoneSelect5
  /-- `ZONE_SELECT_6`: request byte 0x36 (44 R196). -/
  | zoneSelect6
  /-- `ZONE_SELECT_7`: request byte 0x37 (44 R197). -/
  | zoneSelect7
  /-- `ZONE_SELECT_8`: request byte 0x38 (44 R198). -/
  | zoneSelect8
  /-- `STATUS_ONLY`: any other request byte `b` (44 R199). -/
  | statusOnly (b : Byte)
  /-- `KEY_1_HOST_STATUS`: the command `HOST_STATUS` (45 R201). -/
  | keyHostStatus
  /-- `KEY_2_WEATHER`: the external weather command, out of scope (30 R93). -/
  | keyWeather
  /-- `KEY_3_HOST_ZONE`: the command `HOST_ZONE(n)`, `n` as typed at the prompt (45 R201). -/
  | keyHostZone (n : Nat)
  /-- `KEY_4_RESERVED`: starts nothing (30 R94). -/
  | keyReserved
  /-- `KEY_q_EXIT`: leaves the host menu, out of scope (30 R93). -/
  | keyExit
deriving DecidableEq, Repr

/-- The two interfaces a command byte can come in on; the same byte means different things on them (30 R93). -/
inductive Iface where
  /-- a request byte taken from `RXD` (30 R84) -/
  | request
  /-- a key of the host menu (30 R93) -/
  | key
deriving DecidableEq, Repr

/-- One command as it arrives: the interface, its byte, and for a key the number typed at the zone prompt
(0 where nothing is prompted for; log 10). -/
structure Code where
  iface : Iface
  byte : Byte
  entry : Nat
deriving DecidableEq, Repr

end Sys2Proof
end

