-- ==== Sys2Proof/Machine/State.lean ====
section
/-! DEFINITION. The whole state of the hardware as plain data, one record per agent (spec/10_state.md),
the inputs that are scripted, and the state after reset (spec/70_reset_and_hazards.md R260). -/

namespace Sys2Proof.Machine

/-! ### Enumerations -/

/-- A level of a digital line (40 R110). -/
inductive Level where
  | high
  | low
deriving DecidableEq, Repr

/-- What SignalTimer returns: a count, or the sentinel, which is no number (40 R110, R114). -/
inductive MeasureResult where
  /-- `Ok(d)` -/
  | ok (d : Nat)
  /-- `NoTransition` -/
  | noTransition
deriving DecidableEq, Repr

/-- `DEC_STATE` (10 R27). -/
inductive DecState where
  /-- `D_IDLE` -/
  | idle
  /-- `D_START` -/
  | start
  /-- `D_WAIT_RESP` -/
  | waitResp
  /-- `D_ACK_LOW` -/
  | ackLow
  /-- `D_ACK_HIGH` -/
  | ackHigh
  /-- `D_BIT_LOW` -/
  | bitLow
  /-- `D_BIT_HIGH` -/
  | bitHigh
  /-- `D_CHECK` -/
  | check
  /-- `D_DONE` -/
  | done
deriving DecidableEq, Repr

/-- `DEC_RESULT` (10 R28). -/
inductive DecResult where
  | ok
  | noResponse
  | timingTimeout
  | checksumError
deriving DecidableEq, Repr

/-- `DEV_STATE` (10 R31). -/
inductive DevState where
  | awaitRequest
  | decodeActuate
  | respond
deriving DecidableEq, Repr

/-- `H_STATE` (10 R44). -/
inductive HostState where
  /-- `H_IDLE` -/
  | idle
  /-- `H_OPEN` -/
  | opening
  /-- `H_WAIT_WR` -/
  | waitWr
  /-- `H_WRITE` -/
  | write
  /-- `H_BLIND` -/
  | blind
  /-- `H_WAIT_RD` -/
  | waitRd
  /-- `H_READ` -/
  | read
  /-- `H_RELEASE` -/
  | release
  /-- `H_ABORT` -/
  | abort
deriving DecidableEq, Repr

/-- `H_RESULT` (10 R46). -/
inductive HostResult where
  /-- `H_None` -/
  | none
  /-- `H_Done` -/
  | done
  | invalidZoneInput
  | portUnavailable
  | deviceNotResponding
  | noIncomingData
deriving DecidableEq, Repr

/-- The seven typed errors (60 R230, R231). -/
inductive TypedError where
  | timingTimeout
  | checksumError
  | deviceNotResponding
  | noIncomingData
  | invalidZoneInput
  | portUnavailable
  | noResponse
deriving DecidableEq, Repr

/-- Where the device program stands inside `DecodeActuate`, which no register of the spec records: inside
`read_sensor`, in the wait of the moisture sample (44 R184), or at one of the three waits of `write_zone`
(42 R150). The model's own (log 18). -/
inductive DevPos where
  | read
  | adc
  | clkHigh
  | clkLow
  | latch
deriving DecidableEq, Repr

/-- The two nodes; each has its own reset (70 R261). -/
inductive Node where
  | device
  | host
deriving DecidableEq, Repr

/-! ### Inputs -/

/-- A stretch of the sensor's drive: `low` for `more + 1` ticks (10 R48). -/
structure Segment where
  low : Bool
  more : Nat
deriving DecidableEq, Repr

/-- A key of the host menu, pressed no sooner than tick `tick`, with the number typed at the zone prompt
(30 R93). -/
structure KeyPress where
  tick : Nat
  key : Byte
  entry : Nat
deriving DecidableEq, Repr

/-- One move inside a tick: the four agents that have a step of their own, and the environment's two events
(00 R7). DEC and ZACT move when DEV calls them (00 R8), and CHAN delivers when a transmitter's flight ends. -/
inductive Move where
  /-- the transmitter of `DUART`, with the delivery at the end of a flight -/
  | duart
  /-- the transmitter of `HOST`, with the delivery at the end of a flight -/
  | hostUart
  /-- the program of `DEV`, and of `DEC` and `ZACT`, which it calls -/
  | dev
  /-- the program of `HOST` -/
  | host
  /-- a due reset happens -/
  | reset
  /-- a due key is taken -/
  | key
deriving DecidableEq, Repr

/-- A power-up of the device or a start of the host process, no sooner than tick `tick` (70 R261). -/
structure ResetEvent where
  tick : Nat
  node : Node
deriving DecidableEq, Repr

/-- The environment (10 R47 to R49): scripted answers, each list used from its head; where a list is empty
the answer is a free value of `Config` (log 2). -/
structure Env where
  /-- what SENSOR drives from this tick on -/
  sensor : List Segment
  /-- the fate of the next bytes from host to device; `none` is `lost` (43 R166) -/
  chanH2D : List (Option Byte)
  /-- the fate of the next bytes from device to host -/
  chanD2H : List (Option Byte)
  /-- the next moisture samples (10 R47) -/
  moisture : List Byte
  /-- the next answers of `env.port_available` -/
  port : List Bool
  /-- the next answers of `env.host_wr_ok` -/
  wrOk : List Bool
  /-- the next answers of `env.clock` -/
  clock : List DateTime
  /-- keys still to be pressed -/
  keys : List KeyPress
  /-- resets still to come -/
  resets : List ResetEvent
  /-- for the next ticks, who moves after whom inside the tick (00 R7; log 15) -/
  turns : List (List Move)
  /-- `env.intr`: read by no rule (45 R217) -/
  intr : Bool
deriving DecidableEq, Repr

/-! ### The agents' registers -/

/-- The decoder, agent DEC (10 R22 to R30). -/
structure Decoder where
  /-- `SW_DRIVE` (10 R22) -/
  swDrive : Bool
  /-- `TMR_CNT` (10 R23) -/
  tmrCnt : Nat
  /-- `START_CNT` (10 R24) -/
  startCnt : Nat
  /-- `BIT_IDX`, 0..40 (10 R25) -/
  bitIdx : Nat
  /-- `FRAME` (10 R26) -/
  frame : BitVec 40
  /-- `DEC_STATE` (10 R27) -/
  state : DecState
  /-- `DEC_RESULT` (10 R28) -/
  result : DecResult
  /-- `HUM_TENTHS`, unsigned (10 R29) -/
  humTenths : BitVec 12
  /-- `TEMP_TENTHS`, signed (10 R30) -/
  tempTenths : BitVec 12
  /-- `TEMP_VALID` (10 R30) -/
  tempValid : Bool
deriving DecidableEq, Repr

/-- The device controller, agent DEV (10 R31 to R37), with the model's own program position (log 18). -/
structure Device where
  /-- `DEV_STATE` (10 R31) -/
  state : DevState
  /-- `REQ` (10 R32) -/
  req : Byte
  /-- `MOIST` (10 R33) -/
  moist : Byte
  /-- `CUR_ZONE`, an ASCII character '0'..'8' (10 R34) -/
  curZone : Byte
  /-- `ZMASK` (10 R35) -/
  zmask : Byte
  /-- `TEMP_F`, signed (10 R36) -/
  tempF : BitVec 10
  /-- `TXMSG`, 45 bytes (10 R37) -/
  txMsg : List Byte
  /-- `TXLEN`, 0..45 (10 R37) -/
  txLen : Nat
  /-- `TXIDX`, 0..45 (10 R37) -/
  txIdx : Nat
  /-- model's own: the place in `DecodeActuate` -/
  pos : DevPos
  /-- model's own: the loop variable `i` of `write_zone` (42 R150) -/
  zIdx : Nat
  /-- model's own: ticks left of the current `wait n` (00 R15) -/
  wait : Nat
  /-- model's own: the device has reached a `tick` and does no more before the next one (00 R15) -/
  yielded : Bool
deriving DecidableEq, Repr

/-- The zone actuator, agent ZACT, and its three wires (10 R38, R39). -/
structure Actuator where
  /-- `ZSR` (10 R38) -/
  zsr : Byte
  /-- `ZOUT`: bit `i` energises the relay of zone `i + 1` (10 R38) -/
  zout : Byte
  /-- `ZDATA` (10 R39) -/
  zdata : Bool
  /-- `ZCLK` (10 R39) -/
  zclk : Bool
  /-- `ZLATCH` (10 R39) -/
  zlatch : Bool
deriving DecidableEq, Repr

/-- The device transceiver, agent DUART (10 R40, R41). -/
structure DeviceUart where
  /-- `UBRR` (10 R40) -/
  ubrr : Nat
  /-- `RXD` (10 R41) -/
  rxd : Byte
  /-- `RX_FULL` (10 R41) -/
  rxFull : Bool
  /-- `TXD` (10 R41) -/
  txd : Byte
  /-- `TX_READY` (10 R41) -/
  txReady : Bool
  /-- `TX_REMAIN` (10 R41) -/
  txRemain : Nat
deriving DecidableEq, Repr

/-- The host, agent HOST (10 R44 to R46). -/
structure HostRegs where
  /-- `H_STATE` (10 R44) -/
  state : HostState
  /-- `H_TIMER` (10 R45) -/
  timer : Nat
  /-- `H_REQ` (10 R46) -/
  req : Byte
  /-- `H_DISP` (10 R46) -/
  disp : Bool
  /-- `LINE_OPEN` (10 R46) -/
  lineOpen : Bool
  /-- `HTXD` (10 R46) -/
  htxd : Byte
  /-- `HTX_READY` (10 R46) -/
  htxReady : Bool
  /-- `HTX_REMAIN` (10 R46) -/
  htxRemain : Nat
  /-- `HRXD_Q`, oldest byte first (10 R46) -/
  hrxdQ : List Byte
  /-- `HBUF`, `RX_BUF_SIZE` bytes (10 R46) -/
  hBuf : List Byte
  /-- `HLEN` (10 R46) -/
  hLen : Nat
  /-- `H_RESULT` (10 R46) -/
  result : HostResult
deriving DecidableEq, Repr

/-- The model's own mark on a flight: the serial line stores nothing (10 R43), and this says only whether the
byte now in flight to the device, `HTXD` with `HTX_REMAIN`, still reaches it (70 R261; log 13). -/
structure Line where
  /-- the device lost power during this flight, so the byte is lost -/
  h2dLost : Bool
deriving DecidableEq, Repr

/-- The host's outputs to the surrounding software (10 R50). -/
structure Outputs where
  /-- `LOG`, oldest line first -/
  log : List (List Byte)
  /-- `DISPLAY`, oldest line first -/
  display : List (List Byte)
deriving DecidableEq, Repr

/-- The state of the whole machine: time, configuration, the six agents, the outputs and the inputs. -/
structure State where
  /-- `now`: ticks of 1 µs since reset (00 R15) -/
  now : Nat
  /-- the configuration record (10 R52) -/
  cfg : Config
  dec : Decoder
  dev : Device
  zact : Actuator
  duart : DeviceUart
  host : HostRegs
  line : Line
  out : Outputs
  env : Env
deriving DecidableEq, Repr

/-! ### Reasons to stop -/

/-- No event stops the machine: "Nothing in this system is fatal" (60 R243), and "the model never needs the
treatment `fault`" (93, part 1). Nobody raises a fault; the type has no constructor (log 22). -/
inductive Fault where
deriving DecidableEq, Repr

/-- Why the machine takes no step. -/
inductive Refusal where
  /-- An instruction without a meaning. Raised by an arm of `exec` only, and by none in this model. Safe: the
  run stops. -/
  | notModelled (mnemonic : String)
  /-- A configuration that breaks a constraint of the spec is "refused before the run" (60 R254, 93 U22).
  Raised by `step`. Safe: the spec refuses it too. -/
  | illegalConfiguration
deriving DecidableEq, Repr

/-! ### Reset -/

/-- The decoder after reset (70 R260). -/
def Decoder.reset (c : Config) : Decoder where
  swDrive := false
  tmrCnt := 0
  startCnt := 0
  bitIdx := 0
  frame := 0
  state := .idle
  result := .noResponse
  humTenths := 0
  tempTenths := BitVec.ofInt 12 c.tempResetTenths
  tempValid := false

/-- The device controller after reset (70 R260). The bytes of `TXMSG`, which the spec leaves unspecified,
are DESIGN CHOICE zero (unsafe, log 6). -/
def Device.reset : Device where
  state := .awaitRequest
  req := 0x00
  moist := 0x00
  curZone := 0x30
  zmask := 0x00
  tempF := 0
  txMsg := List.replicate Config.txMsgSize 0
  txLen := 0
  txIdx := 0
  pos := .read
  zIdx := 0
  wait := 0
  yielded := false

/-- The actuator after reset: no relay energised, wires idle (70 R260). -/
def Actuator.reset : Actuator where
  zsr := 0x00
  zout := 0x00
  zdata := false
  zclk := false
  zlatch := false

/-- The device transceiver after reset (70 R260). -/
def DeviceUart.reset (c : Config) : DeviceUart where
  ubrr := c.ubrr
  rxd := 0x00
  rxFull := false
  txd := 0x00
  txReady := true
  txRemain := 0

/-- The host after reset (70 R260). The bytes of `HBUF`, which the spec leaves unspecified, are DESIGN
CHOICE zero (unsafe, log 7). -/
def HostRegs.reset (c : Config) : HostRegs where
  state := .idle
  timer := 0
  req := 0x00
  disp := false
  lineOpen := false
  htxd := 0x00
  htxReady := true
  htxRemain := 0
  hrxdQ := []
  hBuf := List.replicate c.rxBufSize 0
  hLen := 0
  result := .none

/-- No byte is in flight. -/
def Line.reset : Line where
  h2dLost := false

/-- The outputs at reset of the model (70 R260). -/
def Outputs.reset : Outputs where
  log := []
  display := []

/-- No scripted input: every answer of the environment is free (log 2). -/
def Env.unscripted : Env where
  sensor := []
  chanH2D := []
  chanD2H := []
  moisture := []
  port := []
  wrOk := []
  clock := []
  keys := []
  resets := []
  turns := []
  intr := false

/-- The state after reset under a configuration (70 R260). -/
def State.resetWith (c : Config) : State where
  now := 0
  cfg := c
  dec := Decoder.reset c
  dev := Device.reset
  zact := Actuator.reset
  duart := DeviceUart.reset c
  host := HostRegs.reset c
  line := Line.reset
  out := Outputs.reset
  env := Env.unscripted

/-- The state after reset, with the parameters at their reference values and the two parameters without a
default free (70 R260; logs 3, 4, 5). -/
def State.reset : State := State.resetWith Config.reference

end Sys2Proof.Machine
end

