-- ==== Sys2Proof/Machine/Flags.lean ====
section
/-! DEFINITION. Status flags and the accesses that write one as a side effect (spec/10_state.md R51). The
hardware has no arithmetic condition codes. -/

namespace Sys2Proof.Machine

/-- Reading `RXD` clears `RX_FULL` (10 R51, 20 R73). -/
def clearRxFull (s : State) : State := { s with duart.rxFull := false }

/-- The receiver takes `c`: `RXD <- c ; RX_FULL <- 1` (43 R163). -/
def latchRxd (c : Byte) (s : State) : State := { s with duart.rxd := c, duart.rxFull := true }

/-- Writing `TXD` clears `TX_READY` and starts the flight (10 R51, 43 R160). -/
def writeTxd (b : Byte) (s : State) : State :=
  { s with duart.txd := b, duart.txReady := false, duart.txRemain := s.cfg.byteTimeUs }

/-- The byte in `TXD` has left: `TX_READY <- 1` (43 R161). -/
def txDone (s : State) : State := { s with duart.txReady := true, duart.txRemain := 0 }

/-- Writing `HTXD` clears `HTX_READY` and starts a new flight (10 R51, 43 R168). -/
def writeHtxd (b : Byte) (s : State) : State :=
  { s with host.htxd := b, host.htxReady := false, host.htxRemain := s.cfg.byteTimeUs, line.h2dLost := false }

/-- The byte in `HTXD` has left: `HTX_READY <- 1`, and the flight with its mark is over (43 R168). -/
def htxDone (s : State) : State :=
  { s with host.htxReady := true, host.htxRemain := 0, line.h2dLost := false }

end Sys2Proof.Machine
end

