-- ==== Sys2Proof/Decode.lean ====
section
/-! DEFINITION. Decoding of request bytes and keys, the rows of spec/opcode_table.json, and the encoder
(spec/30_encoding.md R84 to R86, R93 to R95). -/

namespace Sys2Proof

/-- `is_zone_digit(b)` (30 R85). -/
def isZoneDigit (b : Byte) : Bool :=
  decide (Config.zoneDigitLo ≤ b) && decide (b ≤ Config.zoneDigitHi)

/-- Why a code is no command. -/
inductive DecodeError where
  /-- a key other than '1', '2', '3', '4', 'q': it starts nothing (30 R94) -/
  | unassignedKey (k : Byte)
deriving DecidableEq, Repr

/-- Reading the request byte: eight zone digits, every other value `STATUS_ONLY` (30 R84, R85). No byte is
illegal (30 R94). -/
def decodeRequest (b : Byte) : Instr :=
  if b = 0x31 then .zoneSelect1
  else if b = 0x32 then .zoneSelect2
  else if b = 0x33 then .zoneSelect3
  else if b = 0x34 then .zoneSelect4
  else if b = 0x35 then .zoneSelect5
  else if b = 0x36 then .zoneSelect6
  else if b = 0x37 then .zoneSelect7
  else if b = 0x38 then .zoneSelect8
  else .statusOnly b

/-- Reading a menu key with the zone number typed after it (30 R93, R94). -/
def decodeKey (k : Byte) (entry : Nat) : Except DecodeError Instr :=
  if k = 0x31 then .ok .keyHostStatus
  else if k = 0x32 then .ok .keyWeather
  else if k = 0x33 then .ok (.keyHostZone entry)
  else if k = 0x34 then .ok .keyReserved
  else if k = 0x71 then .ok .keyExit
  else .error (.unassignedKey k)

/-- Decoding by interface (30 R93: one byte, two meanings on two interfaces). -/
def decode (c : Code) : Except DecodeError Instr :=
  match c.iface with
  | .request => .ok (decodeRequest c.byte)
  | .key => decodeKey c.byte c.entry

/-- The code of an instruction, from the same tables (30 R84, R93). -/
def encode (i : Instr) : Code :=
  match i with
  | .zoneSelect1 => ⟨.request, 0x31, 0⟩
  | .zoneSelect2 => ⟨.request, 0x32, 0⟩
  | .zoneSelect3 => ⟨.request, 0x33, 0⟩
  | .zoneSelect4 => ⟨.request, 0x34, 0⟩
  | .zoneSelect5 => ⟨.request, 0x35, 0⟩
  | .zoneSelect6 => ⟨.request, 0x36, 0⟩
  | .zoneSelect7 => ⟨.request, 0x37, 0⟩
  | .zoneSelect8 => ⟨.request, 0x38, 0⟩
  | .statusOnly b => ⟨.request, b, 0⟩
  | .keyHostStatus => ⟨.key, 0x31, 0⟩
  | .keyWeather => ⟨.key, 0x32, 0⟩
  | .keyHostZone n => ⟨.key, 0x33, n⟩
  | .keyReserved => ⟨.key, 0x34, 0⟩
  | .keyExit => ⟨.key, 0x71, 0⟩

/-- The mnemonic of an instruction, as spec/opcode_table.json spells it. -/
def mnemonic (i : Instr) : String :=
  match i with
  | .zoneSelect1 => "ZONE_SELECT_1"
  | .zoneSelect2 => "ZONE_SELECT_2"
  | .zoneSelect3 => "ZONE_SELECT_3"
  | .zoneSelect4 => "ZONE_SELECT_4"
  | .zoneSelect5 => "ZONE_SELECT_5"
  | .zoneSelect6 => "ZONE_SELECT_6"
  | .zoneSelect7 => "ZONE_SELECT_7"
  | .zoneSelect8 => "ZONE_SELECT_8"
  | .statusOnly _ => "STATUS_ONLY"
  | .keyHostStatus => "KEY_1_HOST_STATUS"
  | .keyWeather => "KEY_2_WEATHER"
  | .keyHostZone _ => "KEY_3_HOST_ZONE"
  | .keyReserved => "KEY_4_RESERVED"
  | .keyExit => "KEY_q_EXIT"

/-- One row of the opcode table: a byte `b` matches it when `(b and mask) = pattern` (30 R95). -/
structure TableRow where
  iface : Iface
  mask : Byte
  pattern : Byte
  mnemonic : String
deriving DecidableEq, Repr

/-- A byte matches a row of the table (30 R95). -/
def rowMatches (r : TableRow) (b : Byte) : Bool := (b &&& r.mask) == r.pattern

/-- The sixteen request-byte rows of the table, in its order (30 R95). -/
def requestRows : List TableRow :=
  [⟨.request, 0xFF, 0x31, "ZONE_SELECT_1"⟩, ⟨.request, 0xFF, 0x32, "ZONE_SELECT_2"⟩,
   ⟨.request, 0xFF, 0x33, "ZONE_SELECT_3"⟩, ⟨.request, 0xFF, 0x34, "ZONE_SELECT_4"⟩,
   ⟨.request, 0xFF, 0x35, "ZONE_SELECT_5"⟩, ⟨.request, 0xFF, 0x36, "ZONE_SELECT_6"⟩,
   ⟨.request, 0xFF, 0x37, "ZONE_SELECT_7"⟩, ⟨.request, 0xFF, 0x38, "ZONE_SELECT_8"⟩,
   ⟨.request, 0x80, 0x80, "STATUS_ONLY"⟩, ⟨.request, 0xC0, 0x40, "STATUS_ONLY"⟩,
   ⟨.request, 0xE0, 0x00, "STATUS_ONLY"⟩, ⟨.request, 0xF0, 0x20, "STATUS_ONLY"⟩,
   ⟨.request, 0xFF, 0x30, "STATUS_ONLY"⟩, ⟨.request, 0xFF, 0x39, "STATUS_ONLY"⟩,
   ⟨.request, 0xFE, 0x3A, "STATUS_ONLY"⟩, ⟨.request, 0xFC, 0x3C, "STATUS_ONLY"⟩]

/-- The five key rows of the table (30 R93). -/
def keyRows : List TableRow :=
  [⟨.key, 0xFF, 0x31, "KEY_1_HOST_STATUS"⟩, ⟨.key, 0xFF, 0x32, "KEY_2_WEATHER"⟩,
   ⟨.key, 0xFF, 0x33, "KEY_3_HOST_ZONE"⟩, ⟨.key, 0xFF, 0x34, "KEY_4_RESERVED"⟩,
   ⟨.key, 0xFF, 0x71, "KEY_q_EXIT"⟩]

/-- The whole table (30 R95). -/
def opcodeTable : List TableRow := requestRows ++ keyRows

/-- The instruction of a table word: its first byte, read as the request byte the device would take from
`RXD`. A key row has the same number as a request row and no bit tells the two interfaces apart, so this
reader, which serves the device's fetch, reads every word as a request (log 8); bits above the byte are no
part of a request (30 R84, R85; log 23). -/
def decodeTableWord (nbits w : Nat) : Option Instr :=
  if nbits < 8 then none
  else match decode ⟨.request, BitVec.ofNat 8 w, 0⟩ with
    | .ok i => some i
    | .error _ => none

end Sys2Proof
end

