-- ==== Sys2Proof/Machine/Operands.lean ====
section
/-! DEFINITION. Formats and pure functions: frame fields, checksum, temperature, zone masks, the response
line, the printable filter, the log line, error codes (spec/30_encoding.md, spec/41_sensor_frame_decoder.md
R126 to R132, spec/45_host_protocol.md R209, R212, spec/60_exceptions.md R230). -/

namespace Sys2Proof.Machine

/-! ### The sensor frame (30 R81, 20 R63) -/

/-- `B0 = FRAME[39:32]`, `humidity_int`. -/
def frameB0 (f : BitVec 40) : Byte := f.extractLsb' 32 8
/-- `B1 = FRAME[31:24]`, `humidity_frac`. -/
def frameB1 (f : BitVec 40) : Byte := f.extractLsb' 24 8
/-- `B2 = FRAME[23:16]`, `temp_sign_and_int_byte`. -/
def frameB2 (f : BitVec 40) : Byte := f.extractLsb' 16 8
/-- `B3 = FRAME[15:8]`, `temp_frac`. -/
def frameB3 (f : BitVec 40) : Byte := f.extractLsb' 8 8
/-- `B4 = FRAME[7:0]`, `checksum`. -/
def frameB4 (f : BitVec 40) : Byte := f.extractLsb' 0 8

/-- `temp_sign`, bit 23 (30 R81). -/
def tempSign (f : BitVec 40) : Bool := (frameB2 f).getLsbD 7
/-- `temp_int`, bits 22:16 (30 R81). -/
def tempInt (f : BitVec 40) : Nat := (frameB2 f).toNat % 128

/-- `bit = 0` below the threshold, `1` from it on (30 R82, 41 R125). -/
def classifyBit (threshold d : Nat) : Bool := decide (threshold ≤ d)

/-- `FRAME <- FRAME[38:0] ++ bit` (41 R125). -/
def shiftFrame (f : BitVec 40) (bit : Bool) : BitVec 40 :=
  (f <<< 1) ||| BitVec.zeroExtend 40 (BitVec.ofBool bit)

/-- The checksum test: the sum of the four whole bytes, its carries dropped, against `B4` (41 R127). -/
def checksumOk (f : BitVec 40) : Bool :=
  ((frameB0 f).toNat + (frameB1 f).toNat + (frameB2 f).toNat + (frameB3 f).toNat) % 256 == (frameB4 f).toNat

/-- Temperature in tenths of a degree Celsius: sign and magnitude, `10 * B2[6:0] + B3` (41 R129). -/
def frameTemp (f : BitVec 40) : Int :=
  let mag : Int := 10 * (tempInt f : Int) + ((frameB3 f).toNat : Int)
  if tempSign f then 0 - mag else mag

/-- Relative humidity in tenths of a percent, `10 * B0 + B1` (41 R130). -/
def frameHum (f : BitVec 40) : Nat := 10 * (frameB0 f).toNat + (frameB1 f).toNat

/-- A decoded frame: temperature and humidity in tenths. -/
structure Reading where
  temp : Int
  hum : Nat
deriving DecidableEq, Repr

/-- `decode_frame(f)`; `none` is `ChecksumError` (41 R131). -/
def decodeFrame (f : BitVec 40) : Option Reading :=
  if checksumOk f then some ⟨frameTemp f, frameHum f⟩ else none

/-- `c_to_f(T)`: `1.8 * T / 10 + 32` in exact arithmetic, rounded half away from zero (41 R132). -/
def cToF (t : Int) : Int :=
  let n : Int := 9 * t + 1600
  Int.sign n * (((n.natAbs + 25) / 50 : Nat) : Int)

/-! ### Zones (30 R85, R89) -/

/-- The zone number of a zone digit, `n = b - 0x30` (30 R85). -/
def zoneNumber (b : Byte) : Nat := b.toNat - 0x30

/-- `zone_mask(n) = 1 << (n - 1)` (30 R89). -/
def zoneMask (n : Nat) : Byte := (1 : Byte) <<< (n - 1)

/-- `zone_of(m) = 1 +` the index of the set bit of a one-hot mask (30 R89); 0 where no bit is set. -/
def zoneOf (m : Byte) : Nat :=
  match (List.range 8).find? (fun i => m.getLsbD i) with
  | some i => i + 1
  | none => 0

/-! ### Text (30 R87, R88) -/

/-- The digit `k` as the byte `0x30 + k` (30 R88). -/
def digitByte (k : Nat) : Byte := BitVec.ofNat 8 (0x30 + k)

/-- The decimal digits of `n` before `acc`, most significant first; `fuel` above `n` is enough. -/
def decDigits (fuel n : Nat) (acc : List Byte) : List Byte :=
  match fuel with
  | 0 => acc
  | fuel + 1 =>
    if n / 10 = 0 then digitByte (n % 10) :: acc
    else decDigits fuel (n / 10) (digitByte (n % 10) :: acc)

/-- `dec(v)` for `v >= 0`: no leading zero, `dec(0)` is one byte (30 R88). -/
def decNat (n : Nat) : List Byte := decDigits (n + 1) n []

/-- `dec(v)`: a negative `v` is '-' and the numeral of `-v` (30 R88). -/
def decInt (v : Int) : List Byte :=
  if v < 0 then 0x2D :: decNat v.natAbs else decNat v.natAbs

/-- `"Temp: "` (30 R87). -/
def textTemp : List Byte := [0x54, 0x65, 0x6D, 0x70, 0x3A, 0x20]
/-- `" F, Moisture: "` (30 R87). -/
def textMoisture : List Byte :=
  [0x20, 0x46, 0x2C, 0x20, 0x4D, 0x6F, 0x69, 0x73, 0x74, 0x75, 0x72, 0x65, 0x3A, 0x20]
/-- `", Current Zone: "` (30 R87). -/
def textZone : List Byte :=
  [0x2C, 0x20, 0x43, 0x75, 0x72, 0x72, 0x65, 0x6E, 0x74, 0x20, 0x5A, 0x6F, 0x6E, 0x65, 0x3A, 0x20]

/-- `F-RESP`, the response line with its newline (30 R87, 44 R188). -/
def responseLine (tempF : Int) (moist : Nat) (zone : Byte) : List Byte :=
  textTemp ++ decInt tempF ++ textMoisture ++ decNat moist ++ textZone ++ [zone, 0x0A]

/-- Writes bytes into a buffer from its start; what lies beyond them stays (10 R37, R46). -/
def writePrefix (new old : List Byte) : List Byte := new ++ old.drop new.length

/-- `filter_printable`: keeps, in order, the bytes in `PRINTABLE_LO..PRINTABLE_HI` (45 R209). -/
def filterPrintable (c : Config) (bytes : List Byte) : List Byte :=
  bytes.filter (fun b => decide (c.printableLo ≤ b) && decide (b ≤ c.printableHi))

/-- Two decimal digits, zero padded (30 R90). -/
def twoDigits (n : Nat) : List Byte := [digitByte (n / 10 % 10), digitByte (n % 10)]

/-- Four decimal digits, zero padded (30 R90). -/
def fourDigits (n : Nat) : List Byte := twoDigits (n / 100) ++ twoDigits n

/-- `MM/DD/YYYY HH:MM:SS`, 24-hour clock (30 R90). -/
def timestamp (t : DateTime) : List Byte :=
  twoDigits (t.month0.val + 1) ++ [0x2F] ++ twoDigits (t.day0.val + 1) ++ [0x2F] ++ fourDigits t.year.val
    ++ [0x20] ++ twoDigits t.hour.val ++ [0x3A] ++ twoDigits t.minute.val ++ [0x3A] ++ twoDigits t.second.val

/-- `F-LOG`, one line of the log: timestamp, `": "`, payload, newline (30 R90, 45 R212). -/
def logLine (t : DateTime) (payload : List Byte) : List Byte :=
  timestamp t ++ [0x3A, 0x20] ++ payload ++ [0x0A]

/-! ### Errors (60 R230, R231) -/

/-- The numeric code of an error, the spec's own (60 R230). -/
def TypedError.code (e : TypedError) : Nat :=
  match e with
  | .timingTimeout => 1
  | .checksumError => 2
  | .deviceNotResponding => 3
  | .noIncomingData => 4
  | .invalidZoneInput => 5
  | .portUnavailable => 6
  | .noResponse => 7

/-- The error a read ended in, if it did not end `Ok` (60 R230: "recorded in `DEC_RESULT`"). -/
def DecResult.error? (r : DecResult) : Option TypedError :=
  match r with
  | .ok => none
  | .noResponse => some .noResponse
  | .timingTimeout => some .timingTimeout
  | .checksumError => some .checksumError

/-- The error the last command ended in (60 R230: "recorded in `H_RESULT`"). -/
def HostResult.error? (r : HostResult) : Option TypedError :=
  match r with
  | .none | .done => Option.none
  | .invalidZoneInput => some .invalidZoneInput
  | .portUnavailable => some .portUnavailable
  | .deviceNotResponding => some .deviceNotResponding
  | .noIncomingData => some .noIncomingData

end Sys2Proof.Machine
end

