-- ==== Sys2Proof/Machine/Ops.lean ====
section
/-! DEFINITION. The named operations over the registers: the environment's answers, the single wire and
SignalTimer, the actuator's edges, transmitters, channel and receivers, the host's primitives, ending a read
or a transaction in an error, and the two resets. -/

namespace Sys2Proof.Machine

/-! ### Configuration (60 R254, 93 U22) -/

/-- The constraints whose violation is "refused before the run": 00 R11, R12 and 93 U22. -/
def configLegal (c : Config) : Bool :=
  decide (c.pulseMaxUs < c.timerBoundUs) && decide (c.tStartMinUs ≤ c.tStartUs) && decide (1 ≤ c.rxBufSize)
    && decide (c.rxBufSize ≤ c.hostFifoDepth) && !isZoneDigit c.statusReqByte
    && decide (1 ≤ c.latchPulseUs) && decide (1 ≤ c.clkPulseUs) && decide (1 ≤ c.byteTimeUs)

/-! ### The single wire and SignalTimer (10 R42, 40 R110 to R114) -/

/-- `env.sensor_low(now)`: scripted, else free (10 R48). -/
def sensorLow (s : State) : Bool :=
  match s.env.sensor with
  | [] => Config.envSensorLow s.now
  | g :: _ => g.low

/-- The script of the sensor one tick later. -/
def sensorElapse (script : List Segment) : List Segment :=
  match script with
  | [] => []
  | g :: rest =>
    match g.more with
    | 0 => rest
    | n + 1 => ⟨g.low, n⟩ :: rest

/-- `LINE(now)`: low if either end pulls it low, high otherwise (10 R42). -/
def lineLevel (s : State) : Level :=
  if s.dec.swDrive || sensorLow s then .low else .high

/-- One turn of the loop of `measure(level)`: its result if it returns at this tick, `none` if it counts on
(40 R110). -/
def measurePoll (level : Level) (s : State) : Option MeasureResult :=
  if s.dec.tmrCnt < s.cfg.timerBoundUs then
    if lineLevel s = level then none else some (.ok s.dec.tmrCnt)
  else some .noTransition

/-- `measure_high()`, one turn of its loop (40 R111). -/
def measureHigh (s : State) : Option MeasureResult := measurePoll .high s

/-- `measure_low()`, one turn of its loop (40 R112). -/
def measureLow (s : State) : Option MeasureResult := measurePoll .low s

/-- The device reaches a `tick` (00 R15). -/
def yieldTick (s : State) : State := { s with dev.yielded := true }

/-- The call of a measurement in a decoder state: `TMR_CNT <- 0` (40 R110). -/
def measureStart (d : DecState) (s : State) : State :=
  { s with dec.state := d, dec.tmrCnt := 0 }

/-- `TMR_CNT <- TMR_CNT + 1 ; tick` (40 R110). -/
def measureCount (s : State) : State :=
  yieldTick { s with dec.tmrCnt := s.dec.tmrCnt + 1 }

/-! ### Ending in an error (60 R240): there is no trap; `raise E` writes the result register and control
goes on after the call -/

/-- `finish(r)` of `read_sensor`: the wire released, the result recorded (41 R120; 60 R232 to R234). -/
def finishRead (r : DecResult) (s : State) : State :=
  { s with dec.swDrive := false, dec.result := r, dec.state := .done }

/-- `release_line()` (43 R172). -/
def releaseLine (s : State) : State :=
  { s with host.lineOpen := false, host.hrxdQ := [] }

/-- `abort(e)` of `host_transaction`: the line released, the result recorded, back to `H_IDLE`; `H_ABORT` is
passed in no time (45 R200, 60 R242; log 28). -/
def abortTransaction (e : HostResult) (s : State) : State :=
  { releaseLine { s with host.state := .abort } with host.result := e, host.state := .idle }

/-! ### The moisture input (10 R47) -/

/-- `MOIST <- env.moisture(now)`: scripted, else free (44 R184). -/
def sampleMoisture (s : State) : State :=
  match s.env.moisture with
  | [] => { s with dev.moist := Config.envMoisture s.now }
  | m :: rest => { s with dev.moist := m, env.moisture := rest }

/-! ### The actuator (42 R151, R152) -/

/-- Drives `ZCLK`; a change from 0 to 1 shifts `ZDATA` into `ZSR` (42 R151). -/
def setZclk (v : Bool) (s : State) : State :=
  if v && !s.zact.zclk then
    { s with zact.zclk := v, zact.zsr := (s.zact.zsr <<< 1) ||| BitVec.zeroExtend 8 (BitVec.ofBool s.zact.zdata) }
  else { s with zact.zclk := v }

/-- Drives `ZLATCH`; a change from 0 to 1 copies `ZSR` into `ZOUT` (42 R152). -/
def setZlatch (v : Bool) (s : State) : State :=
  if v && !s.zact.zlatch then { s with zact.zlatch := v, zact.zout := s.zact.zsr }
  else { s with zact.zlatch := v }

/-! ### The channel (43 R163, R165, R166, R171) -/

/-- Device receiver: an unread byte is kept and the newer one lost (43 R163). -/
def deviceReceive (c : Byte) (s : State) : State :=
  if s.duart.rxFull then s else latchRxd c s

/-- Host receiver: queued while the line is open and the queue has room, lost otherwise (43 R171). -/
def hostReceive (c : Byte) (s : State) : State :=
  if s.host.lineOpen && decide (s.host.hrxdQ.length < s.cfg.hostFifoDepth) then
    { s with host.hrxdQ := s.host.hrxdQ ++ [c] }
  else s

/-- The environment's choice for a byte `b` whose flight ends: a scripted fate, else `env.chan` (43 R166). -/
def chanFate (dir : Dir) (b : Byte) (fates : List (Option Byte)) (now : Nat) : Option Byte :=
  match fates with
  | [] => Config.envChan dir b now
  | f :: _ => f

/-- A byte of direction `H2D` completes its flight: the environment loses it or gives some byte to the
device (43 R166). -/
def deliverH2D (b : Byte) (s : State) : State :=
  let s' := { s with env.chanH2D := s.env.chanH2D.tail }
  match chanFate .h2d b s.env.chanH2D s.now with
  | none => s'
  | some c => deviceReceive c s'

/-- A byte of direction `D2H` completes its flight (43 R166). -/
def deliverD2H (b : Byte) (s : State) : State :=
  let s' := { s with env.chanD2H := s.env.chanD2H.tail }
  match chanFate .d2h b s.env.chanD2H s.now with
  | none => s'
  | some c => hostReceive c s'

/-- The device transmitter at a tick (43 R161). -/
def deviceTransmit (s : State) : State :=
  if s.duart.txReady then s
  else if s.duart.txRemain ≤ 1 then deliverD2H s.duart.txd (txDone s)
  else { s with duart.txRemain := s.duart.txRemain - 1 }

/-- The host transmitter at a tick (43 R168); a byte in flight when the device lost power reaches nobody
(70 R261). -/
def hostTransmit (s : State) : State :=
  if s.host.htxReady then s
  else if s.host.htxRemain ≤ 1 then
    if s.line.h2dLost then htxDone s else deliverH2D s.host.htxd (htxDone s)
  else { s with host.htxRemain := s.host.htxRemain - 1 }

/-! ### The host's primitives (43 R168 to R172, 45 R209 to R213) -/

/-- Asks `env.port_available(now)`: scripted, else free (10 R49). -/
def askPort (s : State) : Bool × State :=
  match s.env.port with
  | [] => (Config.envPortAvailable s.now, s)
  | a :: rest => (a, { s with env.port := rest })

/-- Asks `env.host_wr_ok(now)`: scripted, else free (10 R49). -/
def askWrOk (s : State) : Bool × State :=
  match s.env.wrOk with
  | [] => (Config.envHostWrOk s.now, s)
  | a :: rest => (a, { s with env.wrOk := rest })

/-- Asks `env.clock(now)`: scripted, else free (10 R49). -/
def askClock (s : State) : DateTime × State :=
  match s.env.clock with
  | [] => (Config.envClock s.now, s)
  | a :: rest => (a, { s with env.clock := rest })

/-- `open_line()` when the port is available (43 R172). -/
def openLine (s : State) : State :=
  { s with host.lineOpen := true, host.hrxdQ := [] }

/-- `host_wr_ready(now)` (43 R170). -/
def hostWrReady (s : State) : Bool × State :=
  let (ok, s') := askWrOk s
  (s.host.lineOpen && s.host.htxReady && ok, s')

/-- `host_rd_ready(now)` (43 R170). -/
def hostRdReady (s : State) : Bool :=
  s.host.lineOpen && decide (1 ≤ s.host.hrxdQ.length)

/-- `host_write_byte(b)` (43 R168). -/
def hostWriteByte (b : Byte) (s : State) : State := writeHtxd b s

/-- `host_read()`: at most `RX_BUF_SIZE` of the queued bytes go to `HBUF`, the rest stay queued (43 R169). -/
def hostRead (s : State) : State :=
  let taken := s.host.hrxdQ.take s.cfg.rxBufSize
  { s with host.hBuf := writePrefix taken s.host.hBuf, host.hLen := taken.length,
           host.hrxdQ := s.host.hrxdQ.drop s.cfg.rxBufSize }

/-- `append(record)`: one line more at the end of `LOG`, with the clock asked once (45 R210, R212). -/
def appendRecord (payload : List Byte) (s : State) : State :=
  let (t, s') := askClock s
  { s' with out.log := s'.out.log ++ [logLine t payload] }

/-- `push(DISPLAY, payload)` when `H_DISP = 1` (45 R213). -/
def displayPayload (payload : List Byte) (s : State) : State :=
  if s.host.disp then { s with out.display := s.out.display ++ [payload] } else s

/-! ### The device's serial primitives (43 R160, R162) -/

/-- `send_byte(b)` once `TX_READY = 1` (43 R160). -/
def sendByte (b : Byte) (s : State) : State := writeTxd b s

/-- `recv_byte()` once `RX_FULL = 1`: the byte, and the state with `RX_FULL` cleared (43 R162). -/
def recvByte (s : State) : Byte × State := (s.duart.rxd, clearRxFull s)

/-! ### Resets (70 R260, R261) -/

/-- A power-up of the device: every device register to its reset value, and "the byte in flight" lost in either
direction; no host register is touched, since "neither resets the other" (70 R261; log 13). -/
def deviceReset (s : State) : State :=
  { s with dec := Decoder.reset s.cfg, dev := Device.reset, zact := Actuator.reset, duart := DeviceUart.reset s.cfg,
           line.h2dLost := !s.host.htxReady }

/-- A start of the host process: every host register to its reset value, and with it the end of its flight; `LOG`
persists (10 R50, R55) and `DISPLAY` does not (log 14). -/
def hostReset (s : State) : State :=
  { s with host := HostRegs.reset s.cfg, line := Line.reset, out.display := [] }

/-- The reset of one node (70 R261). -/
def resetNode (n : Node) (s : State) : State :=
  match n with
  | .device => deviceReset s
  | .host => hostReset s

/-- A due reset is taken from the script; at most one each time (log 16). -/
def takeReset (s : State) : State :=
  match s.env.resets with
  | [] => s
  | r :: rest => if r.tick ≤ s.now then resetNode r.node { s with env.resets := rest } else s

end Sys2Proof.Machine
end

