-- ==== Sys2Proof/Machine/HostSide.lean ====
section
/-! DEFINITION. The host transaction as the moves of agent HOST at one tick, and the commands that start one
(spec/45_host_protocol.md R200 to R213). -/

namespace Sys2Proof.Machine

/-- `H_OPEN`, step (1): the port is asked for; without it the command ends (45 R216). -/
def stepOpen (s : State) : State :=
  match s.host.state with
  | .opening =>
    let (ok, s') := askPort s
    if ok then { openLine s' with host.state := .waitWr, host.timer := 0 }
    else { s' with host.result := .portUnavailable, host.state := .idle }
  | _ => s

/-- `H_WAIT_WR`, step (2): one poll for write-readiness, or the deadline (45 R203). -/
def stepWaitWr (s : State) : State :=
  match s.host.state with
  | .waitWr =>
    if s.host.timer < s.cfg.hostDeadlineUs then
      let (ready, s') := hostWrReady s
      if ready then { s' with host.state := .write }
      else { s' with host.timer := s'.host.timer + 1 }
    else abortTransaction .deviceNotResponding s
  | _ => s

/-- `H_WRITE`, step (3): exactly one byte is written, and the blind wait begins (45 R205, R206). -/
def stepWrite (s : State) : State :=
  match s.host.state with
  | .write => { hostWriteByte s.host.req s with host.state := .blind, host.timer := 0 }
  | _ => s

/-- `H_BLIND`, step (4): one tick of the blind wait, or its end (45 R206). -/
def stepBlind (s : State) : State :=
  match s.host.state with
  | .blind =>
    if s.host.timer < s.cfg.blindWaitUs then { s with host.timer := s.host.timer + 1 }
    else { s with host.state := .waitRd, host.timer := 0 }
  | _ => s

/-- `H_WAIT_RD`, step (5): one poll for read-readiness, or the deadline (45 R207). -/
def stepWaitRd (s : State) : State :=
  match s.host.state with
  | .waitRd =>
    if s.host.timer < s.cfg.hostDeadlineUs then
      if hostRdReady s then { s with host.state := .read }
      else { s with host.timer := s.host.timer + 1 }
    else abortTransaction .noIncomingData s
  | _ => s

/-- `H_READ`, step (6): one read (45 R208). -/
def stepRead (s : State) : State :=
  match s.host.state with
  | .read => { hostRead s with host.state := .release }
  | _ => s

/-- The payload: what the read took, filtered to printable ASCII (45 R209). -/
def payload (s : State) : List Byte := filterPrintable s.cfg (s.host.hBuf.take s.host.hLen)

/-- `H_RELEASE`, step (7): the line is released, the record appended, the payload shown if the command asked
for it, and the command is done (45 R210 to R213). -/
def stepRelease (s : State) : State :=
  match s.host.state with
  | .release =>
    let text := payload s
    { displayPayload text (appendRecord text (releaseLine s)) with host.result := .done, host.state := .idle }
  | _ => s

/-- What the host does at one tick: each state in the order of the seven steps; the untimed steps take no
time (45 R200). -/
def hostRun (s : State) : State :=
  stepRelease (stepRead (stepWaitRd (stepBlind (stepWrite (stepWaitWr (stepOpen s))))))

/-- `host_transaction(req, disp)` up to its first poll: the line is opened or the command ends (45 R200, R216). -/
def openTransaction (req : Byte) (disp : Bool) (s : State) : State :=
  stepOpen { s with host.req := req, host.disp := disp, host.state := .opening }

/-- `HOST_STATUS` up to its first poll; a command is taken only in `H_IDLE` (45 R201; log 12). -/
def openStatus (s : State) : State :=
  if s.host.state = .idle then openTransaction s.cfg.statusReqByte s.cfg.dispStatus s else s

/-- `HOST_ZONE(n)` up to its first poll: a number outside 1..`N_ZONES` is refused before anything happens
(45 R201, R202). With an `N_ZONES` above 8, which the spec leaves open, the byte is `0x30 + n` cut to 8 bits: DESIGN
CHOICE (unsafe, log 33). -/
def openZone (n : Nat) (s : State) : State :=
  if s.host.state = .idle then
    if 1 ≤ n ∧ n ≤ s.cfg.nZones then openTransaction (BitVec.ofNat 8 (0x30 + n)) s.cfg.dispZone s
    else { s with host.result := .invalidZoneInput }
  else s

/-- What the host does after a command at this tick: a transaction just begun polls once (45 R200). -/
def firstPoll (s s' : State) : State := if s.host.state = .idle then hostRun s' else s'

/-- The command `HOST_STATUS` with its first poll (45 R201). -/
def commandStatus (s : State) : State := firstPoll s (openStatus s)

/-- The command `HOST_ZONE(n)` with its first poll (45 R201). -/
def commandZone (n : Nat) (s : State) : State := firstPoll s (openZone n s)

/-- The key that is due, if the host can take one: its tick has come and the host is in `H_IDLE`
(45 R201; log 16). -/
def dueKey (s : State) : Option KeyPress :=
  match s.env.keys with
  | [] => none
  | k :: _ => if s.host.state = .idle ∧ k.tick ≤ s.now then some k else none

/-- The script without the key just taken. -/
def dropKey (s : State) : State := { s with env.keys := s.env.keys.tail }

/-- What a menu command does to the host up to its first poll (45 R201, 30 R93, R94); a request byte is no menu
command. -/
def openCommand (i : Instr) (s : State) : State :=
  match i with
  | .keyHostStatus => openStatus s
  | .keyHostZone n => openZone n s
  | .keyWeather | .keyReserved | .keyExit => s
  | .zoneSelect1 | .zoneSelect2 | .zoneSelect3 | .zoneSelect4 => s
  | .zoneSelect5 | .zoneSelect6 | .zoneSelect7 | .zoneSelect8 => s
  | .statusOnly _ => s

/-- A key that is due is taken, before the host's program moves at this tick; a key that is no command starts
nothing (30 R94). -/
def openKey (s : State) : State :=
  match dueKey s with
  | none => s
  | some k =>
    match decodeKey k.key k.entry with
    | .ok i => openCommand i (dropKey s)
    | .error _ => dropKey s

/-- A key that is due is taken after the host's program has moved at this tick: the transaction it starts polls at
once. -/
def takeKey (s : State) : State := firstPoll s (openKey s)

end Sys2Proof.Machine
end

