-- ==== Sys2Proof/Machine/Keys.lean ====
section
/-! DEFINITION. The command keys of the host menu (spec/45_host_protocol.md R201, R202;
spec/30_encoding.md R93, R94). -/

namespace Sys2Proof.Machine

/-- `KEY_1_HOST_STATUS`: `HOST_STATUS` starts a transaction with `STATUS_REQ_BYTE`, shown to the user
(45 R201). -/
def execKeyHostStatus (s : State) : Host.Outcome State Fault Refusal := .next (commandStatus s)

/-- `KEY_2_WEATHER`: the weather command is surrounding software and starts no transaction (00 R5 (b),
30 R93; log 11). -/
def execKeyWeather (s : State) : Host.Outcome State Fault Refusal := .next s

/-- `KEY_3_HOST_ZONE`: `HOST_ZONE(n)` (45 R201, R202). -/
def execKeyHostZone (n : Nat) (s : State) : Host.Outcome State Fault Refusal := .next (commandZone n s)

/-- `KEY_4_RESERVED`: "reserved/unimplemented" and starts nothing (30 R94; log 11). -/
def execKeyReserved (s : State) : Host.Outcome State Fault Refusal := .next s

/-- `KEY_q_EXIT`: leaves the menu of the surrounding software and starts nothing (00 R5 (c), 30 R93;
log 11). -/
def execKeyExit (s : State) : Host.Outcome State Fault Refusal := .next s

end Sys2Proof.Machine
end

