-- ==== Sys2Proof/Machine/Decoder.lean ====
section
/-! DEFINITION. SensorFrameDecoder: `read_sensor` as the moves of agent DEC between two ticks
(spec/41_sensor_frame_decoder.md R120 to R131). -/

namespace Sys2Proof.Machine

/-- The call of `read_sensor`: `FRAME`, `BIT_IDX` and `START_CNT` cleared, the wire driven low (41 R121). -/
def startRead (s : State) : State :=
  { s with dec.state := .start, dec.frame := 0, dec.bitIdx := 0, dec.swDrive := true, dec.startCnt := 0 }

/-- `D_START`: one turn of the loop of the start signal, then the release and the call of `measure_high`
(41 R121, R122). -/
def startSignal (s : State) : State :=
  if s.dec.startCnt < s.cfg.tStartUs then
    yieldTick { s with dec.startCnt := s.dec.startCnt + 1 }
  else measureStart .waitResp { s with dec.swDrive := false }

/-- What a decoder state does with one turn of its measurement: it counts on, goes on with the width, or
ends the read with the error of this phase (41 R122 to R124; 40 R114). -/
def onMeasure (r : Option MeasureResult) (fail : DecResult) (go : Nat → State → State) (s : State) : State :=
  match r with
  | none => measureCount s
  | some (.ok d) => go d s
  | some .noTransition => finishRead fail s

/-- The head of `while BIT_IDX < N_BITS`: the next bit's low phase, or the check (41 R120). -/
def nextBit (s : State) : State :=
  if s.dec.bitIdx < s.cfg.nBits then measureStart .bitLow s else { s with dec.state := .check }

/-- Classification and shift of a bit whose high pulse lasted `d` ticks (41 R125). -/
def shiftBit (d : Nat) (s : State) : State :=
  { s with dec.frame := shiftFrame s.dec.frame (classifyBit s.cfg.bitThresholdUs d),
           dec.bitIdx := s.dec.bitIdx + 1 }

/-- Temperature, humidity and validity written together (41 R129 to R131, 20 R70). -/
def commitFrame (s : State) : State :=
  { s with dec.tempTenths := BitVec.ofInt 12 (frameTemp s.dec.frame),
           dec.humTenths := BitVec.ofNat 12 (frameHum s.dec.frame),
           dec.tempValid := true }

/-- `D_CHECK`: a matching checksum commits, any other discards the frame (41 R127, R128). -/
def checkFrame (s : State) : State :=
  if checksumOk s.dec.frame then finishRead .ok (commitFrame s) else finishRead .checksumError s

/-- One move of the decoder (41 R120). `D_DONE` waits for the device cycle to take the result (44 R183). -/
def decoderMove (s : State) : State :=
  match s.dec.state with
  | .idle => startRead s
  | .start => startSignal s
  | .waitResp => onMeasure (measureHigh s) .noResponse (fun _ => measureStart .ackLow) s
  | .ackLow => onMeasure (measureLow s) .noResponse (fun _ => measureStart .ackHigh) s
  | .ackHigh => onMeasure (measureHigh s) .noResponse (fun _ => nextBit) s
  | .bitLow => onMeasure (measureLow s) .timingTimeout (fun _ => measureStart .bitHigh) s
  | .bitHigh => onMeasure (measureHigh s) .timingTimeout (fun d s => nextBit (shiftBit d s)) s
  | .check => checkFrame s
  | .done => s

end Sys2Proof.Machine
end

