-- ==== Sys2Proof/Machine/Device.lean ====
section
/-! DEFINITION. The device cycle as the moves of agent DEV between two ticks
(spec/44_device_protocol.md R180 to R190, spec/42_zone_actuator.md R150). -/

namespace Sys2Proof.Machine

/-- `wait n`: the ticks still to pass, then `k` (00 R15). -/
def waiting (k : State → State) (s : State) : State :=
  if s.dev.wait = 0 then k s else yieldTick { s with dev.wait := s.dev.wait - 1 }

/-- The start of a cycle with request byte `b`: `REQ` written, the call of `read_sensor` (44 R181, R182).
The read of `RXD` that gave `b` clears `RX_FULL` (43 R162). -/
def beginCycle (b : Byte) (s : State) : State :=
  let (_, s') := recvByte s
  startRead { s' with dev.req := b, dev.state := .decodeActuate, dev.pos := .read, dev.yielded := false }

/-- The cycle puts the decoder back to `D_IDLE` whatever its result, then takes the moisture sample
(44 R183, R184). -/
def takeResult (s : State) : State :=
  let s' := sampleMoisture { s with dec.state := .idle }
  { s' with dev.pos := .adc, dev.wait := s'.cfg.adcTimeUs }

/-- `write_zone`, loop body for bit `i`: the bit presented, the clock raised, the wait begun (42 R150). -/
def presentBit (i : Nat) (s : State) : State :=
  let s' := setZclk true { s with zact.zdata := s.dev.zmask.getLsbD i }
  { s' with dev.pos := .clkHigh, dev.zIdx := i, dev.wait := s'.cfg.clkPulseUs }

/-- `ZCLK <- 0 ; wait CLK_PULSE_US` (42 R150). -/
def clockFall (s : State) : State :=
  let s' := setZclk false s
  { s' with dev.pos := .clkLow, dev.wait := s'.cfg.clkPulseUs }

/-- `ZLATCH <- 1 ; wait LATCH_PULSE_US` (42 R150). -/
def latchRise (s : State) : State :=
  let s' := setZlatch true s
  { s' with dev.pos := .latch, dev.wait := s'.cfg.latchPulseUs }

/-- The next bit of the loop, or the latch pulse after the last (42 R150). -/
def nextZoneBit (s : State) : State :=
  match s.dev.zIdx with
  | 0 => latchRise s
  | i + 1 => presentBit i s

/-- `format_response()` (44 R188). -/
def formatResponse (s : State) : State :=
  let line := responseLine s.dev.tempF.toInt s.dev.moist.toNat s.dev.curZone
  { s with dev.txMsg := writePrefix line s.dev.txMsg, dev.txLen := line.length, dev.txIdx := 0 }

/-- `TEMP_F <- c_to_f(TEMP_TENTHS)`, then `Respond` with the formatted line (44 R186, R188). -/
def convertAndRespond (s : State) : State :=
  formatResponse { s with dev.tempF := BitVec.ofInt 10 (cToF s.dec.tempTenths.toInt), dev.state := .respond }

/-- The end of `write_zone`: `ZLATCH <- 0` (42 R150), then the conversion. -/
def latchFall (s : State) : State := convertAndRespond (setZlatch false s)

/-- The zone update: a zone digit is remembered, its mask made and pushed to the actuator; any other byte
skips all of it (44 R185, R187). -/
def zoneUpdate (s : State) : State :=
  if isZoneDigit s.dev.req then
    presentBit 7 { s with dev.curZone := s.dev.req, dev.zmask := zoneMask (zoneNumber s.dev.req) }
  else convertAndRespond s

/-- `Respond`: the next byte to `send_byte`, which waits for `TX_READY`; after the last, back to
`AwaitRequest` (44 R189, 43 R160). -/
def sendMove (s : State) : State :=
  if s.dev.txIdx < s.dev.txLen then
    if s.duart.txReady then
      { sendByte ((s.dev.txMsg[s.dev.txIdx]?).getD 0) s with dev.txIdx := s.dev.txIdx + 1 }
    else yieldTick s
  else { s with dev.state := .awaitRequest }

/-- One move of the device program; none after it reached a `tick`, and none in `AwaitRequest`, which the
fetch of the next request byte ends (44 R180, R181). -/
def deviceMove (s : State) : State :=
  if s.dev.yielded then s
  else
    match s.dev.state with
    | .awaitRequest => s
    | .respond => sendMove s
    | .decodeActuate =>
      match s.dev.pos with
      | .read => if s.dec.state = .done then takeResult s else decoderMove s
      | .adc => waiting zoneUpdate s
      | .clkHigh => waiting clockFall s
      | .clkLow => waiting nextZoneBit s
      | .latch => waiting latchFall s

/-- `n` moves. -/
def deviceMoves (n : Nat) (s : State) : State :=
  match n with
  | 0 => s
  | n + 1 => deviceMoves n (deviceMove s)

/-- The statements of the device program between two ticks, which take no time (00 R15). No legal
configuration lets more than 12 of them follow one another (log 19). -/
def deviceRun (s : State) : State := deviceMoves 12 s

end Sys2Proof.Machine
end

