-- ==== Sys2Proof/Machine/World.lean ====
section
/-! DEFINITION. One tick of the whole machine, in the order the environment lets the agents move, and the run of
one device cycle (spec/00_scope.md R7, R15; spec/44_device_protocol.md R180). -/

namespace Sys2Proof.Machine

/-! ### Who moves after whom (00 R7) -/

/-- A move of an agent of the hardware, and not an event of the environment. -/
def Move.isAgent (m : Move) : Bool :=
  match m with
  | .duart | .hostUart | .dev | .host => true
  | .reset | .key => false

/-- The orders of the agents in a tick that no rule forbids. A delivery comes before any poll at the same tick
(43 R163, R171), and a flight that begins at a tick has no tick behind it yet (43 R165), so both transmitters move
before both programs; the rest is free (00 R7; log 15). -/
def agentOrders : List (List Move) :=
  [[.duart, .hostUart, .dev, .host], [.hostUart, .duart, .dev, .host],
   [.duart, .hostUart, .host, .dev], [.hostUart, .duart, .host, .dev]]

/-- Resets and keys may come anywhere in a tick; the agents move once each, in an order no rule forbids. -/
def turnLegal (t : List Move) : Bool := agentOrders.contains (t.filter Move.isAgent)

/-- The turn of a tick for which nothing is scripted (log 15). -/
def plainTurn : List Move := [.duart, .hostUart, .dev, .host]

/-- The turn of the next tick: the environment's, if no rule forbids it. -/
def nextTurn (s : State) : List Move :=
  match s.env.turns with
  | [] => plainTurn
  | t :: _ => if turnLegal t then t else plainTurn

/-- The moves of a turn, in its order. A key taken before the host's program moves leaves the first poll to it. -/
def runTurn (t : List Move) (s : State) : State :=
  match t with
  | [] => s
  | .duart :: rest => runTurn rest (deviceTransmit s)
  | .hostUart :: rest => runTurn rest (hostTransmit s)
  | .dev :: rest => runTurn rest (deviceRun s)
  | .host :: rest => runTurn rest (hostRun s)
  | .reset :: rest => runTurn rest (takeReset s)
  | .key :: rest => runTurn rest (if rest.contains .host then openKey s else takeKey s)

/-! ### One tick (00 R15) -/

/-- Time goes on by one tick; the scripts of what holds at a tick go on with it (00 R15). -/
def elapse (s : State) : State :=
  { s with now := s.now + 1, env.sensor := sensorElapse s.env.sensor, env.turns := s.env.turns.tail,
           dev.yielded := false }

/-- One tick in which no reset happens and no key is taken: time, then every agent moves once. -/
def tick (s : State) : State := runTurn ((nextTurn s).filter Move.isAgent) (elapse s)

/-- One tick with the resets and keys that fall inside its turn. -/
def advance (s : State) : State := runTurn (nextTurn s) (elapse s)

/-! ### The cycle (44 R180) -/

/-- The inputs that are due between two ticks while a cycle runs: a reset, then a key (log 16). -/
def pollInputs (s : State) : State := takeKey (takeReset s)

/-- Ticks until the device is back in `AwaitRequest`, at most `fuel` of them. -/
def runToAwait (fuel : Nat) (s : State) : State :=
  match fuel with
  | 0 => s
  | fuel + 1 => if s.dev.state = .awaitRequest then s else runToAwait fuel (advance (pollInputs s))

/-- An upper bound on the ticks of a cycle: the start signal, the measurements of the handshake and of the bits
(41 R134), the moisture sample, `write_zone` (42 R155), the byte still in the transmitter and the bytes of the
response (44 R189); log 20. -/
def cycleBound (s : State) : Nat :=
  s.cfg.tStartUs + (3 + 2 * s.cfg.nBits) * s.cfg.timerBoundUs + s.cfg.adcTimeUs + 16 * s.cfg.clkPulseUs
    + s.cfg.latchPulseUs + s.duart.txRemain + Config.txMsgSize * s.cfg.byteTimeUs + Config.txMsgSize

/-- One whole cycle with request byte `b`, the other agents and the environment moving with it tick by tick
(44 R180). It ends when `DEV_STATE` is `AwaitRequest` again. -/
def deviceCycle (b : Byte) (s : State) : State :=
  runToAwait (cycleBound s) (deviceRun (beginCycle b s))

end Sys2Proof.Machine
end

