-- ==== Sys2Proof/Machine/Requests.lean ====
section
/-! DEFINITION. The request-byte instructions (spec/44_device_protocol.md R191 to R199): "All nine
instructions run the cycle of rule R180; they differ only in rule R185." -/

namespace Sys2Proof.Machine

/-- `ZONE_SELECT_1` (44 R191). -/
def execZoneSelect1 (s : State) : Host.Outcome State Fault Refusal := .next (deviceCycle 0x31 s)
/-- `ZONE_SELECT_2` (44 R192). -/
def execZoneSelect2 (s : State) : Host.Outcome State Fault Refusal := .next (deviceCycle 0x32 s)
/-- `ZONE_SELECT_3` (44 R193). -/
def execZoneSelect3 (s : State) : Host.Outcome State Fault Refusal := .next (deviceCycle 0x33 s)
/-- `ZONE_SELECT_4` (44 R194). -/
def execZoneSelect4 (s : State) : Host.Outcome State Fault Refusal := .next (deviceCycle 0x34 s)
/-- `ZONE_SELECT_5` (44 R195). -/
def execZoneSelect5 (s : State) : Host.Outcome State Fault Refusal := .next (deviceCycle 0x35 s)
/-- `ZONE_SELECT_6` (44 R196). -/
def execZoneSelect6 (s : State) : Host.Outcome State Fault Refusal := .next (deviceCycle 0x36 s)
/-- `ZONE_SELECT_7` (44 R197). -/
def execZoneSelect7 (s : State) : Host.Outcome State Fault Refusal := .next (deviceCycle 0x37 s)
/-- `ZONE_SELECT_8` (44 R198). -/
def execZoneSelect8 (s : State) : Host.Outcome State Fault Refusal := .next (deviceCycle 0x38 s)
/-- `STATUS_ONLY` with request byte `b` (44 R199). -/
def execStatusOnly (b : Byte) (s : State) : Host.Outcome State Fault Refusal := .next (deviceCycle b s)

end Sys2Proof.Machine
end

