-- ==== Sys2Proof/Machine/Dispatch.lean ====
section
/-! DEFINITION. One arm per instruction. -/

namespace Sys2Proof.Machine

def exec (i : Instr) (s : State) : Host.Outcome State Fault Refusal :=
  match i with
  | .zoneSelect1 => Sys2Proof.Machine.execZoneSelect1 s
  | .zoneSelect2 => Sys2Proof.Machine.execZoneSelect2 s
  | .zoneSelect3 => Sys2Proof.Machine.execZoneSelect3 s
  | .zoneSelect4 => Sys2Proof.Machine.execZoneSelect4 s
  | .zoneSelect5 => Sys2Proof.Machine.execZoneSelect5 s
  | .zoneSelect6 => Sys2Proof.Machine.execZoneSelect6 s
  | .zoneSelect7 => Sys2Proof.Machine.execZoneSelect7 s
  | .zoneSelect8 => Sys2Proof.Machine.execZoneSelect8 s
  | .statusOnly b => Sys2Proof.Machine.execStatusOnly b s
  | .keyHostStatus => Sys2Proof.Machine.execKeyHostStatus s
  | .keyWeather => Sys2Proof.Machine.execKeyWeather s
  | .keyHostZone n => Sys2Proof.Machine.execKeyHostZone n s
  | .keyReserved => Sys2Proof.Machine.execKeyReserved s
  | .keyExit => Sys2Proof.Machine.execKeyExit s

end Sys2Proof.Machine
end

