-- ==== Sys2Proof/Machine/Step.lean ====
section
/-! DEFINITION. One step of the machine: the fetch of a request byte or of a key and the run of its
instruction, a reset, or one tick. -/

namespace Sys2Proof.Machine

/-- The device can fetch: it waits in `AwaitRequest` and a byte is latched (20 R72, 44 R181). -/
def requestPending (s : State) : Bool :=
  decide (s.dev.state = .awaitRequest) && s.duart.rxFull

/-- A reset is due (70 R261). -/
def resetPending (s : State) : Bool :=
  match s.env.resets with
  | [] => false
  | r :: _ => decide (r.tick ≤ s.now)

/-- One step. An illegal configuration is refused (60 R254). A latched request byte is decoded and its
instruction run; else a due reset happens; else a due key is taken and its command run; else one tick passes
(log 1). -/
def step (s : State) : Host.Outcome State Fault Refusal :=
  if configLegal s.cfg then
    if requestPending s then exec (decodeRequest s.duart.rxd) s
    else if resetPending s then .next (takeReset s)
    else
      match dueKey s with
      | some k =>
        match decodeKey k.key k.entry with
        | .ok i => exec i (dropKey s)
        | .error _ => .next (dropKey s)
      | none => .next (advance s)
  else .refused .illegalConfiguration

/-- The state with a request byte latched for the device's next fetch: the first byte of the word in `RXD`,
the device in `AwaitRequest` (20 R72; logs 8, 9). -/
def State.withFetchWord (s : State) (_nbits w : Nat) : State :=
  { s with dev.state := .awaitRequest, duart.rxd := BitVec.ofNat 8 w, duart.rxFull := true }

end Sys2Proof.Machine
end

