-- ==== Sys2Proof/WellFormed.lean ====
section
/-! DEFINITION. Which terms of `Instr` stand for a row of spec/opcode_table.json. -/

namespace Sys2Proof

/-- `STATUS_ONLY` is the class of the bytes outside '1'..'8' (30 R84, R95); every other term is a row as it
stands: a zone number outside 1..8 is a legal operand of `KEY_3_HOST_ZONE`, refused by the host (45 R202). -/
def Instr.wellFormed (i : Instr) : Bool :=
  match i with
  | .statusOnly b => !isZoneDigit b
  | .zoneSelect1 | .zoneSelect2 | .zoneSelect3 | .zoneSelect4 => true
  | .zoneSelect5 | .zoneSelect6 | .zoneSelect7 | .zoneSelect8 => true
  | .keyHostStatus | .keyWeather | .keyHostZone _ | .keyReserved | .keyExit => true

end Sys2Proof
end

