-- ==== Sys2Proof/Safety.lean ====
section
/-! DEFINITION. The terms claims are stated in: runs of ticks, premises about the environment and about
parameters, and the properties that every step keeps. -/

namespace Sys2Proof.Machine

/-- `n` ticks in which no reset happens and no key is taken. -/
def ticks (n : Nat) (s : State) : State :=
  match n with
  | 0 => s
  | n + 1 => ticks n (tick s)

/-- No reset of either node is to come, so that a cycle runs to its end (70 R261). -/
def noReset (s : State) : Bool := s.env.resets.isEmpty

/-- The host neither transmits nor takes a command, and its line is closed, so that none of its registers
moves (45 R200, R201; 43 R171). -/
def hostQuiet (s : State) : Bool :=
  s.env.keys.isEmpty && decide (s.host.state = .idle) && s.host.htxReady && !s.host.lineOpen

/-- The three actuator wires are at rest, as they are outside `write_zone` (42 R150, 70 R262). -/
def wiresIdle (s : State) : Bool := !s.zact.zclk && !s.zact.zlatch

/-- A menu command that starts a transaction, with its request byte and its `DISP_FLAG` (45 R201). -/
def commandStarts (c : Config) (i : Instr) (req : Byte) (disp : Bool) : Prop :=
  (i = .keyHostStatus ∧ req = c.statusReqByte ∧ disp = c.dispStatus)
    ∨ ∃ n : Nat, 1 ≤ n ∧ n ≤ c.nZones ∧ i = .keyHostZone n ∧ req = BitVec.ofNat 8 (0x30 + n) ∧ disp = c.dispZone

/-! ### Numerals (30 R90) -/

/-- `bytes` are decimal digits and read as the number `n`, leading zeros included. -/
def readsAs (bytes : List Byte) (n : Nat) : Prop :=
  (∀ b ∈ bytes, 0x30 ≤ b.toNat ∧ b.toNat ≤ 0x39) ∧ bytes.foldl (fun m b => 10 * m + (b.toNat - 0x30)) 0 = n

/-! ### Scripts of the sensor wire (30 R83, R97; 41 R135) -/

/-- The drive `low` for `n` ticks; nothing for 0 ticks. -/
def drive (low : Bool) (n : Nat) : List Segment :=
  match n with
  | 0 => []
  | n + 1 => [⟨low, n⟩]

/-- The widths of a well-behaved sensor: the gap, the two acknowledgement pulses, the low phase of a bit, the
high pulses of a 0 and of a 1, and the low after the last bit (41 R135). -/
structure Widths where
  gap : Nat
  ackLow : Nat
  ackHigh : Nat
  bitLow : Nat
  zero : Nat
  one : Nat
  endLow : Nat
deriving DecidableEq, Repr

/-- The bounds on the widths of a well-behaved sensor (41 R135); pulses that are there last a tick or more. -/
def widthsLegal (c : Config) (w : Widths) : Bool :=
  decide (w.gap < c.timerBoundUs) && decide (1 ≤ w.ackLow) && decide (w.ackLow < c.timerBoundUs)
    && decide (1 ≤ w.ackHigh) && decide (w.ackHigh < c.timerBoundUs)
    && decide (1 ≤ w.bitLow) && decide (w.bitLow < c.timerBoundUs)
    && decide (1 ≤ w.zero) && decide (w.zero < c.bitThresholdUs)
    && decide (c.bitThresholdUs ≤ w.one) && decide (w.zero < c.timerBoundUs) && decide (w.one < c.timerBoundUs)
    && decide (1 ≤ w.one) && decide (1 ≤ w.endLow)

/-- The forty bits of a frame on the wire, from bit `n - 1` down to bit 0 (30 R82). -/
def bitScript (w : Widths) (f : BitVec 40) (n : Nat) : List Segment :=
  match n with
  | 0 => []
  | n + 1 => drive true w.bitLow ++ drive false (if f.getLsbD n then w.one else w.zero) ++ bitScript w f n

/-- What a well-behaved sensor drives from the tick on at which a start signal begins (41 R135, 30 R83). -/
def sensorScript (c : Config) (w : Widths) (f : BitVec 40) : List Segment :=
  drive false c.tStartUs ++ drive false w.gap ++ drive true w.ackLow ++ drive false w.ackHigh
    ++ bitScript w f 40 ++ drive true w.endLow

/-- The nominal widths of 41 R135: the source's figures, which are parameters (00 R13), the middle of the range it
gives for a '0', and the three widths that are not from the source. -/
def nominalWidths (c : Config) : Widths :=
  ⟨30, c.nominalAckUs, c.nominalAckUs, 50, (c.nominalZeroLoUs + c.nominalZeroHiUs) / 2, c.nominalOneUs, 50⟩

/-- Bits on the wire in the order given, the first one first (30 R82). -/
def pulseScript (w : Widths) (bits : List Bool) : List Segment :=
  match bits with
  | [] => []
  | b :: rest => drive true w.bitLow ++ drive false (if b then w.one else w.zero) ++ pulseScript w rest

/-- What a sensor drives that answers the start signal, sends some bits and then holds the wire at one level: low
from the next bit on, or high in its pulse (41 R136, 95 V2.13 to V2.15). -/
def breakOffScript (c : Config) (w : Widths) (bits : List Bool) (low : Bool) (n : Nat) : List Segment :=
  drive false c.tStartUs ++ drive false w.gap ++ drive true w.ackLow ++ drive false w.ackHigh
    ++ pulseScript w bits ++ (if low then [] else drive true w.bitLow) ++ drive low n

/-! ### Properties that every step keeps -/

/-- `CUR_ZONE` is a character '0'..'8', and `ZMASK` is 0x00 exactly while it is '0' and otherwise
`1 << (CUR_ZONE - 0x31)` (10 R34, R35). -/
def zonesAgree (s : State) : Bool :=
  decide (s.dev.curZone = 0x30 ∧ s.dev.zmask = 0x00)
    || (isZoneDigit s.dev.curZone && decide (s.dev.zmask = (1 : Byte) <<< (s.dev.curZone.toNat - 0x31)))

/-- The device is inside `write_zone` (42 R150). -/
def inWriteZone (s : State) : Bool :=
  decide (s.dev.state = .decodeActuate)
    && (decide (s.dev.pos = .clkHigh) || decide (s.dev.pos = .clkLow) || decide (s.dev.pos = .latch))

/-- A mask with no bit or exactly one bit set (30 R89). -/
def atMostOneBit (m : Byte) : Bool := m == 0 || (List.range 8).any (fun i => m == (1 : Byte) <<< i)

/-- The actuator follows the mask: at rest and at the latch it holds `ZMASK`, while bits are shifted its low
bits are the bits of `ZMASK` already sent and the relays keep a mask with at most one bit; a wire is up only
during its own pulse, and `write_zone` never runs with the empty mask (42 R150 to R153, 20 R71, 30 R89). -/
def actuatorFollows (s : State) : Bool :=
  atMostOneBit s.zact.zout && decide (s.dev.zIdx ≤ 7)
    && decide (s.zact.zclk = true → s.dev.state = .decodeActuate ∧ s.dev.pos = .clkHigh)
    && decide (s.zact.zlatch = true → s.dev.state = .decodeActuate ∧ s.dev.pos = .latch)
    && (!inWriteZone s || s.dev.zmask != 0)
    && (if s.dev.state = .decodeActuate ∧ (s.dev.pos = .clkHigh ∨ s.dev.pos = .clkLow) then
          decide (s.zact.zsr.toNat % 2 ^ (8 - s.dev.zIdx) = s.dev.zmask.toNat / 2 ^ s.dev.zIdx)
        else decide (s.zact.zsr = s.dev.zmask ∧ s.zact.zout = s.dev.zmask))

/-- Between ticks the host is idle or in one of its three timed phases; the line is open exactly in the
latter, and an idle host's queue is empty (10 R46, 45 R211). -/
def hostLineHeld (s : State) : Bool :=
  (decide (s.host.state = .idle) && !s.host.lineOpen && s.host.hrxdQ.isEmpty)
    || ((decide (s.host.state = .waitWr) || decide (s.host.state = .blind) || decide (s.host.state = .waitRd))
        && s.host.lineOpen)

/-- The ticks a transaction still takes at most: what is left of the wait of its phase, the waits of the later phases
and the tick at which the last one ends (45 R203, R206, R207). -/
def hostWaitLeft (s : State) : Nat :=
  match s.host.state with
  | .waitWr => (s.cfg.hostDeadlineUs - s.host.timer) + s.cfg.blindWaitUs + s.cfg.hostDeadlineUs + 1
  | .blind => (s.cfg.blindWaitUs - s.host.timer) + s.cfg.hostDeadlineUs + 1
  | .waitRd => (s.cfg.hostDeadlineUs - s.host.timer) + 1
  | .idle | .opening | .write | .read | .release | .abort => 0

/-- A transaction that has begun ended in one of the three ways it can: with its record, or at a deadline
(45 R217). -/
def hostEnded (s : State) : Prop :=
  s.host.state = .idle
    ∧ (s.host.result = .done ∨ s.host.result = .deviceNotResponding ∨ s.host.result = .noIncomingData)

/-- Only a flight in progress is marked as lost: the line stores nothing beyond it (10 R43; log 13). -/
def markInFlight (s : State) : Bool := !s.line.h2dLost || !s.host.htxReady

/-- The decoder's place, bit count and pin agree: the wire is driven only in `D_START`, the decoder is idle
outside a read, and `BIT_IDX` counts the bits of this read (10 R22, R25, R27; 41 R120). -/
def decoderInPlace (s : State) : Bool :=
  decide (s.dec.swDrive = true → s.dec.state = .start)
    && decide (s.dec.state ≠ .idle → s.dev.state = .decodeActuate ∧ s.dev.pos = .read)
    && decide (s.dec.bitIdx ≤ s.cfg.nBits)
    && (match s.dec.state with
        | .start | .waitResp | .ackLow | .ackHigh => decide (s.dec.bitIdx = 0)
        | .bitLow | .bitHigh => decide (s.dec.bitIdx < s.cfg.nBits)
        | .check => decide (s.dec.bitIdx = s.cfg.nBits)
        | .idle | .done => true)

/-- Every buffer has its size and every counter stays within its range (10 R23 to R25, R37, R41, R45, R46). -/
def buffersInRange (s : State) : Bool :=
  decide (s.dev.txMsg.length = Config.txMsgSize) && decide (s.dev.txLen ≤ Config.txMsgSize)
    && decide (s.dev.txIdx ≤ s.dev.txLen)
    && decide (s.host.hBuf.length = s.cfg.rxBufSize) && decide (s.host.hLen ≤ s.cfg.rxBufSize)
    && decide (s.host.hrxdQ.length ≤ s.cfg.hostFifoDepth)
    && decide (s.dec.tmrCnt ≤ s.cfg.timerBoundUs) && decide (s.dec.startCnt ≤ s.cfg.tStartUs)
    && decide (s.host.timer ≤ max s.cfg.hostDeadlineUs s.cfg.blindWaitUs)
    && decide (s.duart.txRemain ≤ s.cfg.byteTimeUs) && decide (s.host.htxRemain ≤ s.cfg.byteTimeUs)

/-- The holding registers stay in the ranges of 10 R29, R30, R36, and before the first good read they hold
their reset values. -/
def readingsInRange (s : State) : Bool :=
  decide (-1525 ≤ s.dec.tempTenths.toInt) && decide (s.dec.tempTenths.toInt ≤ 1525)
    && decide (s.dec.humTenths.toNat ≤ 2805)
    && decide (-243 ≤ s.dev.tempF.toInt) && decide (s.dev.tempF.toInt ≤ 307)
    && decide (s.dec.tempValid = false →
        s.dec.tempTenths = BitVec.ofInt 12 s.cfg.tempResetTenths ∧ s.dec.humTenths = 0)

end Sys2Proof.Machine
end

