-- ==== Sys2Proof/Certificates/Slice0/Obligations.lean ====
section
/-! DEFINITION. The statements about the model, for the provers. Each docstring names the rules of spec/ it
formalises; where a clause is the model's choice it names the log entry. -/

open Sys2Proof Sys2Proof.Machine

/-! ### Encodings -/

/-- R95: the sixteen request rows and five key rows; every byte matches exactly one request row, and that row's
mnemonic is the one of the instruction the byte decodes to. -/
def Obligations.OpcodeTableCoversEveryByteOnce : Prop :=
  ((requestRows.filter (fun r => r.mnemonic == "STATUS_ONLY")).map (fun r => (r.mask, r.pattern)) =
      [(0x80, 0x80), (0xC0, 0x40), (0xE0, 0x00), (0xF0, 0x20), (0xFF, 0x30), (0xFF, 0x39), (0xFE, 0x3A), (0xFC, 0x3C)])
  ∧ ((requestRows.filter (fun r => r.mnemonic != "STATUS_ONLY")).map (fun r => (r.mask, r.pattern, r.mnemonic)) =
      [(0xFF, 0x31, "ZONE_SELECT_1"), (0xFF, 0x32, "ZONE_SELECT_2"), (0xFF, 0x33, "ZONE_SELECT_3"),
       (0xFF, 0x34, "ZONE_SELECT_4"), (0xFF, 0x35, "ZONE_SELECT_5"), (0xFF, 0x36, "ZONE_SELECT_6"),
       (0xFF, 0x37, "ZONE_SELECT_7"), (0xFF, 0x38, "ZONE_SELECT_8")])
  ∧ keyRows.length = 5 ∧ opcodeTable = requestRows ++ keyRows
  ∧ (∀ (r : TableRow) (b : Byte), rowMatches r b = true ↔ b &&& r.mask = r.pattern)
  ∧ ∀ b : Byte, (requestRows.filter (fun r => rowMatches r b)).map TableRow.mnemonic = [mnemonic (decodeRequest b)]

/-- Decoding the code of a well-formed instruction gives the instruction back (30 R84, R85, R93). That the
number typed at the zone prompt travels beside the key is the model's choice, log 10. -/
def Obligations.DecodeOfEncodeIsTheInstruction : Prop :=
  ∀ i : Instr, i.wellFormed = true → decode (encode i) = .ok i

/-- What decodes is well formed, and its code has the interface and the byte it was read from; the number typed
is kept where the key takes one (30 R85, R93; log 10). -/
def Obligations.DecodedCodeEncodesBack : Prop :=
  ∀ (c : Code) (i : Instr), decode c = .ok i →
    i.wellFormed = true ∧ (encode i).iface = c.iface ∧ (encode i).byte = c.byte
      ∧ (c.iface = .key → c.byte = 0x33 → (encode i).entry = c.entry)

/-- Words of the table decode to their instructions (30 R84, R93): the same byte on the two interfaces, the
bytes beside the digits, a byte with bit 7 set; a key that is none of the five is no command (30 R94). That the number
5 typed at the zone prompt travels beside the key is the model's choice, log 10. -/
def Obligations.WordsOfTheTableDecode : Prop :=
  decode ⟨.request, 0b00110001, 0⟩ = .ok .zoneSelect1 ∧ decode ⟨.request, 0b00111000, 0⟩ = .ok .zoneSelect8
  ∧ decode ⟨.request, 0b00110000, 0⟩ = .ok (.statusOnly 0x30) ∧ decode ⟨.request, 0b00111001, 0⟩ = .ok (.statusOnly 0x39)
  ∧ decode ⟨.request, 0b10110001, 0⟩ = .ok (.statusOnly 0xB1)
  ∧ decode ⟨.key, 0b00110001, 0⟩ = .ok .keyHostStatus ∧ decode ⟨.key, 0b00110010, 0⟩ = .ok .keyWeather
  ∧ decode ⟨.key, 0b00110011, 5⟩ = .ok (.keyHostZone 5) ∧ decode ⟨.key, 0b00110100, 0⟩ = .ok .keyReserved
  ∧ decode ⟨.key, 0b01110001, 0⟩ = .ok .keyExit
  ∧ decode ⟨.key, 0b00110101, 0⟩ = .error (.unassignedKey 0x35)

/-- R85: a zone digit is a byte of 0x31..0x38, and its zone number is the byte less 0x30; R84: every other byte
is the status-only instruction with that byte. -/
def Obligations.RequestByteClasses : Prop :=
  ∀ b : Byte,
    (isZoneDigit b = true ↔ 0x31 ≤ b.toNat ∧ b.toNat ≤ 0x38)
    ∧ (isZoneDigit b = true → zoneNumber b = b.toNat - 0x30 ∧ 1 ≤ zoneNumber b ∧ zoneNumber b ≤ 8)
    ∧ (isZoneDigit b = false ↔ decodeRequest b = .statusOnly b)

/-! ### Formats -/

/-- R63, R81, R127, R129, R130, R131: a frame put together from five bytes, first byte highest, decodes to the
temperature and humidity of those bytes exactly when the last byte is the sum of the others modulo 256. -/
def Obligations.FiveByteFrameDecodes : Prop :=
  ∀ b0 b1 b2 b3 b4 : Byte,
    decodeFrame (b0 ++ b1 ++ b2 ++ b3 ++ b4) =
      if (b0.toNat + b1.toNat + b2.toNat + b3.toNat) % 256 = b4.toNat then
        some { temp := (if 128 ≤ b2.toNat then -1 else 1) * (10 * ((b2.toNat % 128 : Nat) : Int) + (b3.toNat : Int)),
               hum := 10 * b0.toNat + b1.toNat }
      else none

/-- R128: a valid frame with one byte changed is no valid frame, so every single-bit error is caught. -/
def Obligations.ChecksumCatchesErrorsInOneByte : Prop :=
  ∀ (f e : BitVec 40) (k : Nat), checksumOk f = true → k < 5 → e ≠ 0 →
    e &&& ((0xFF : BitVec 40) <<< (8 * k)) = e → checksumOk (f ^^^ e) = false

/-- R132: the formula, its rounding half away from zero, where ties are, the range, and the corner cases. -/
def Obligations.FahrenheitRoundsHalfAwayFromZero : Prop :=
  (∀ t : Int,
    cToF t = Int.sign (9 * t + 1600) * ((((9 * t + 1600).natAbs + 25) / 50 : Nat) : Int)
    ∧ (50 * cToF t - (9 * t + 1600)).natAbs ≤ 25
    ∧ ((50 * cToF t - (9 * t + 1600)).natAbs = 25 ↔ t % 50 = 25)
    ∧ ((50 * cToF t - (9 * t + 1600)).natAbs = 25 → (9 * t + 1600).natAbs < (50 * cToF t).natAbs)
    ∧ (-1525 ≤ t → t ≤ 1525 → -243 ≤ cToF t ∧ cToF t ≤ 307))
  ∧ cToF 25 = 37 ∧ cToF (-175) = 1 ∧ cToF (-225) = -9 ∧ cToF (-178) = 0 ∧ cToF 0 = 32 ∧ cToF (-400) = -40
  ∧ cToF 1525 = 307 ∧ cToF (-1525) = -243 ∧ cToF 215 = 71

/-- R89: the mask of zone `n` is the one bit `n - 1`, and the zone of the mask is `n`; the digit of the zone leads
to the same mask. -/
def Obligations.ZoneMaskRoundTrip : Prop :=
  ∀ n : Nat, 1 ≤ n → n ≤ 8 →
    (zoneMask n).toNat = 2 ^ (n - 1) ∧ zoneOf (zoneMask n) = n
    ∧ isZoneDigit (BitVec.ofNat 8 (0x30 + n)) = true
    ∧ zoneMask (zoneNumber (BitVec.ofNat 8 (0x30 + n))) = zoneMask n

/-- R190: the length of the response line and of its two numerals, for every Fahrenheit value and moisture there is:
40 to 45 bytes, and `TXMSG` holds 45. -/
def Obligations.ResponseLineLength : Prop :=
  ∀ (t : Int) (m : Byte) (z : Byte), -243 ≤ t → t ≤ 307 →
    (responseLine t m.toNat z).length = 38 + (decInt t).length + (decNat m.toNat).length
    ∧ 1 ≤ (decInt t).length ∧ (decInt t).length ≤ 4 ∧ 1 ≤ (decNat m.toNat).length ∧ (decNat m.toNat).length ≤ 3
    ∧ 40 ≤ (responseLine t m.toNat z).length ∧ (responseLine t m.toNat z).length ≤ Config.txMsgSize
    ∧ Config.txMsgSize = 45

/-- R209: the filter keeps, in order and as often as it stands there, every byte in the printable range and removes
every other. R91: of a complete response line it removes the newline and nothing else. -/
def Obligations.CompleteLineLosesOnlyItsNewline : Prop :=
  (∀ (c : Config) (bytes : List Byte),
    List.Sublist (filterPrintable c bytes) bytes
    ∧ (∀ b : Byte, b ∈ filterPrintable c bytes ↔ b ∈ bytes ∧ c.printableLo ≤ b ∧ b ≤ c.printableHi)
    ∧ (∀ b : Byte, c.printableLo ≤ b → b ≤ c.printableHi → (filterPrintable c bytes).count b = bytes.count b))
  ∧ ∀ (c : Config) (t : Int) (m z : Byte), c.printableLo = 0x20 → c.printableHi = 0x7E →
    (z = 0x30 ∨ isZoneDigit z = true) →
    filterPrintable c (responseLine t m.toNat z) ++ [0x0A] = responseLine t m.toNat z

/-- R90: a log line is the timestamp, ": ", the payload and a newline, 21 bytes before the payload; the timestamp is
MM/DD/YYYY HH:MM:SS in zero-padded decimal digits, month and day counted from 1. And the line and the timestamps of
vector V6.6 (95_test_vectors.md). -/
def Obligations.LogLineShape : Prop :=
  (∀ (t : DateTime) (p : List Byte), (logLine t p).length = 22 + p.length
    ∧ (logLine t p).take 21 = timestamp t ++ [0x3A, 0x20]
    ∧ (logLine t p).drop 21 = p ++ [0x0A])
  ∧ (∀ t : DateTime, (timestamp t).length = 19
    ∧ readsAs ((timestamp t).take 2) (t.month0.val + 1) ∧ (timestamp t)[2]? = some 0x2F
    ∧ readsAs (((timestamp t).drop 3).take 2) (t.day0.val + 1) ∧ (timestamp t)[5]? = some 0x2F
    ∧ readsAs (((timestamp t).drop 6).take 4) t.year.val ∧ (timestamp t)[10]? = some 0x20
    ∧ readsAs (((timestamp t).drop 11).take 2) t.hour.val ∧ (timestamp t)[13]? = some 0x3A
    ∧ readsAs (((timestamp t).drop 14).take 2) t.minute.val ∧ (timestamp t)[16]? = some 0x3A
    ∧ readsAs (((timestamp t).drop 17).take 2) t.second.val)
  ∧ logLine ⟨10, 9, 2026, 8, 1, 2⟩ (filterPrintable Config.reference (responseLine 71 128 0x33)) =
      [0x31, 0x31, 0x2F, 0x31, 0x30, 0x2F, 0x32, 0x30, 0x32, 0x36, 0x20, 0x30, 0x38, 0x3A, 0x30, 0x31, 0x3A, 0x30, 0x32,
       0x3A, 0x20] ++ responseLine 71 128 0x33
  ∧ timestamp ⟨2, 0, 2027, 7, 5, 9⟩ =
      [0x30, 0x33, 0x2F, 0x30, 0x31, 0x2F, 0x32, 0x30, 0x32, 0x37, 0x20, 0x30, 0x37, 0x3A, 0x30, 0x35, 0x3A, 0x30, 0x39]
  ∧ (timestamp ⟨2, 0, 2027, 23, 59, 59⟩).drop 11 = [0x32, 0x33, 0x3A, 0x35, 0x39, 0x3A, 0x35, 0x39]

/-! ### SignalTimer and the decoder -/

/-- R110: one turn of the loop of `measure`: below the bound it returns the count when the line is at the other
level and counts otherwise; at the bound it returns the sentinel. R42: the line is low while the decoder drives it and
else follows the sensor. -/
def Obligations.MeasureReturnsAtTheOppositeLevel : Prop :=
  ∀ (level : Level) (s : State),
    (s.cfg.timerBoundUs ≤ s.dec.tmrCnt → measurePoll level s = some .noTransition)
    ∧ (s.dec.tmrCnt < s.cfg.timerBoundUs → lineLevel s ≠ level → measurePoll level s = some (.ok s.dec.tmrCnt))
    ∧ (s.dec.tmrCnt < s.cfg.timerBoundUs → lineLevel s = level → measurePoll level s = none)
    ∧ (s.dec.swDrive = true → lineLevel s = .low)
    ∧ (s.dec.swDrive = false → (lineLevel s = .low ↔ sensorLow s = true))

/-- R125: classification against the threshold, the shift of the new bit into bit 0, the old top bit dropped, the
count, and nothing else. -/
def Obligations.ClassifiedBitEntersTheFrame : Prop :=
  ∀ (d : Nat) (s : State),
    shiftBit d s = { s with dec.frame := (shiftBit d s).dec.frame, dec.bitIdx := s.dec.bitIdx + 1 }
    ∧ ((shiftBit d s).dec.frame.getLsbD 0 = true ↔ s.cfg.bitThresholdUs ≤ d)
    ∧ ∀ i : Nat, i < 39 → (shiftBit d s).dec.frame.getLsbD (i + 1) = s.dec.frame.getLsbD i

/-- R181, R121: a request taken from `RXD` becomes `REQ`, clears `RX_FULL` and begins a read with a cleared frame and
the wire driven low; the serial data, the actuator, the host and the zone are as before. -/
def Obligations.RequestBeginsARead : Prop :=
  ∀ (b : Byte) (s : State),
    (beginCycle b s).dev.req = b ∧ (beginCycle b s).duart = { s.duart with rxFull := false }
    ∧ (beginCycle b s).dev.state = .decodeActuate
    ∧ (beginCycle b s).dec = { s.dec with state := .start, frame := 0, bitIdx := 0, swDrive := true, startCnt := 0 }
    ∧ lineLevel (beginCycle b s) = .low
    ∧ (beginCycle b s).zact = s.zact ∧ (beginCycle b s).host = s.host ∧ (beginCycle b s).out = s.out
    ∧ (beginCycle b s).env = s.env ∧ (beginCycle b s).cfg = s.cfg ∧ (beginCycle b s).now = s.now
    ∧ (beginCycle b s).dev.curZone = s.dev.curZone ∧ (beginCycle b s).dev.zmask = s.dev.zmask

/-- R70, R128: in a state whose decoder is in place, a move of the device writes the holding registers only when all
bits are in (`N_BITS`, 40 by R9) and the checksum matches, and then all of them together from that frame. -/
def Obligations.HoldingRegistersCommitTogether : Prop :=
  ∀ s : State, decoderInPlace s = true →
    ((deviceMove s).dec.tempTenths = s.dec.tempTenths ∧ (deviceMove s).dec.humTenths = s.dec.humTenths
      ∧ (deviceMove s).dec.tempValid = s.dec.tempValid)
    ∨ (s.dec.bitIdx = s.cfg.nBits ∧ checksumOk s.dec.frame = true ∧ (deviceMove s).dec.result = .ok
      ∧ (deviceMove s).dec.tempTenths.toInt = frameTemp s.dec.frame
      ∧ (deviceMove s).dec.humTenths.toNat = frameHum s.dec.frame ∧ (deviceMove s).dec.tempValid = true)

/-! ### The actuator -/

/-- R151: on a rise of `ZCLK` the bit on `ZDATA` enters `ZSR[0]` and the rest moves up; nothing happens on a fall;
`ZOUT` does not change. That driving a wire that is high already is no rise is the model's reading, log 30. -/
def Obligations.ClockRiseShifts : Prop :=
  ∀ s : State,
    (s.zact.zclk = false → (setZclk true s).zact.zsr = BitVec.truncate 8 (s.zact.zsr ++ BitVec.ofBool s.zact.zdata))
    ∧ (s.zact.zclk = true → (setZclk true s).zact.zsr = s.zact.zsr)
    ∧ (setZclk false s).zact.zsr = s.zact.zsr
    ∧ (∀ v : Bool, setZclk v s = { s with zact.zclk := v, zact.zsr := (setZclk v s).zact.zsr })

/-- R152: on a rise of `ZLATCH` all eight bits of `ZSR` go to `ZOUT` at once; `ZSR` does not change. That driving a
wire that is high already is no rise is the model's reading, log 30. -/
def Obligations.LatchRiseCopies : Prop :=
  ∀ s : State,
    (s.zact.zlatch = false → (setZlatch true s).zact.zout = s.zact.zsr)
    ∧ (s.zact.zlatch = true → (setZlatch true s).zact.zout = s.zact.zout)
    ∧ (setZlatch false s).zact.zout = s.zact.zout
    ∧ (∀ v : Bool, setZlatch v s = { s with zact.zlatch := v, zact.zout := (setZlatch v s).zact.zout })

/-- R153: eight clock pulses with the bits of a mask, bit 7 first, leave the mask in `ZSR` whatever stood there, and
`ZOUT` as it was; the latch pulse then copies it. -/
def Obligations.EightClocksLoadTheMask : Prop :=
  ∀ (m : Byte) (s : State), wiresIdle s = true →
    let t := [7, 6, 5, 4, 3, 2, 1, 0].foldl
      (fun (u : State) (i : Nat) => setZclk false (setZclk true { u with zact.zdata := m.getLsbD i })) s
    t.zact.zsr = m ∧ t.zact.zout = s.zact.zout
    ∧ (setZlatch false (setZlatch true t)).zact.zout = m ∧ (setZlatch false (setZlatch true t)).zact.zsr = m

/-- R71: the relays change at no tick but that of the latch edge, and then to the content of `ZSR`, all bits at
once. -/
def Obligations.RelaysMoveOnlyAtTheLatch : Prop :=
  ∀ s : State, configLegal s.cfg = true → (tick s).zact.zout ≠ s.zact.zout →
    s.zact.zlatch = false ∧ (tick s).zact.zlatch = true ∧ (tick s).zact.zout = (tick s).zact.zsr

/-! ### The device cycle -/

/-- R191 to R198: each zone-select instruction runs the cycle to its end and leaves its character and mask in
`CUR_ZONE` and `ZMASK`, the mask in `ZSR` and at the relays, the conversion of the held temperature in `TEMP_F`, and
the whole response line handed to the transmitter; R184, R78: `MOIST` is the value the moisture input answered in this
cycle, and the next scripted answer is used up. That one step runs the whole cycle is the model's choice, log 1, and
the form of the answer is that of log 2. -/
def Obligations.ZoneSelectSetsTheZone : Prop :=
  ∀ p ∈ ([(.zoneSelect1, 0x31, 0x01), (.zoneSelect2, 0x32, 0x02), (.zoneSelect3, 0x33, 0x04), (.zoneSelect4, 0x34, 0x08),
      (.zoneSelect5, 0x35, 0x10), (.zoneSelect6, 0x36, 0x20), (.zoneSelect7, 0x37, 0x40), (.zoneSelect8, 0x38, 0x80)] :
      List (Instr × Byte × Byte)),
    ∀ s : State, configLegal s.cfg = true → noReset s = true → wiresIdle s = true →
      ∃ t : State, exec p.1 s = .next t
        ∧ t.dev.state = .awaitRequest ∧ t.dev.req = p.2.1
        ∧ t.dev.curZone = p.2.1 ∧ t.dev.zmask = p.2.2
        ∧ t.zact.zsr = p.2.2 ∧ t.zact.zout = p.2.2 ∧ wiresIdle t = true
        ∧ (match s.env.moisture with
            | m :: later => t.dev.moist = m ∧ t.env.moisture = later
            | [] => t.env.moisture = [] ∧ ∃ n, s.now ≤ n ∧ n ≤ t.now ∧ t.dev.moist = Config.envMoisture n)
        ∧ t.dev.tempF.toInt = cToF t.dec.tempTenths.toInt
        ∧ t.dev.txIdx = t.dev.txLen
        ∧ t.dev.txMsg.take t.dev.txLen = responseLine t.dev.tempF.toInt t.dev.moist.toNat p.2.1
        ∧ t.dev.txMsg.drop t.dev.txLen = s.dev.txMsg.drop t.dev.txLen
        ∧ t.duart.txd = 0x0A ∧ t.dec.state = .idle ∧ t.dec.swDrive = false

/-- R199, R187: the status-only instruction runs the same cycle and leaves the zone, the mask and the whole actuator,
its wires included, as they were; the response echoes the zone held, not the byte; R184, R78: `MOIST` is the value the
moisture input answered in this cycle. That one step runs the whole cycle is the model's choice, log 1, and the form of
the answer is that of log 2. -/
def Obligations.StatusOnlyKeepsTheZone : Prop :=
  ∀ (b : Byte) (s : State), isZoneDigit b = false → configLegal s.cfg = true → noReset s = true →
    ∃ t : State, exec (.statusOnly b) s = .next t
      ∧ t.dev.state = .awaitRequest ∧ t.dev.req = b
      ∧ t.dev.curZone = s.dev.curZone ∧ t.dev.zmask = s.dev.zmask ∧ t.zact = s.zact
      ∧ (match s.env.moisture with
          | m :: later => t.dev.moist = m ∧ t.env.moisture = later
          | [] => t.env.moisture = [] ∧ ∃ n, s.now ≤ n ∧ n ≤ t.now ∧ t.dev.moist = Config.envMoisture n)
      ∧ t.dev.tempF.toInt = cToF t.dec.tempTenths.toInt
      ∧ t.dev.txIdx = t.dev.txLen
      ∧ t.dev.txMsg.take t.dev.txLen = responseLine t.dev.tempF.toInt t.dev.moist.toNat s.dev.curZone
      ∧ t.dev.txMsg.drop t.dev.txLen = s.dev.txMsg.drop t.dev.txLen
      ∧ t.duart.txd = 0x0A ∧ t.dec.state = .idle ∧ t.dec.swDrive = false

/-- R134, R155, R189, R271: a cycle takes no longer than the start signal, 83 measurements (3 + 2 * `N_BITS`), the
moisture sample, the actuator's pulses, the byte still in the transmitter and 44 byte times (the last byte need not have
left); and no shorter than the start signal, the moisture sample, for a zone digit the actuator's pulses, and the 39
flights between the bytes of the shortest line. -/
def Obligations.CycleTimeIsBounded : Prop :=
  ∀ (b : Byte) (s : State), configLegal s.cfg = true → noReset s = true →
    (deviceCycle b s).dev.state = .awaitRequest
    ∧ s.now + s.cfg.tStartUs + s.cfg.adcTimeUs
        + (if isZoneDigit b then 16 * s.cfg.clkPulseUs + s.cfg.latchPulseUs else 0) + 39 * s.cfg.byteTimeUs
        ≤ (deviceCycle b s).now
    ∧ (deviceCycle b s).now ≤ s.now + s.cfg.tStartUs + (3 + 2 * s.cfg.nBits) * s.cfg.timerBoundUs + s.cfg.adcTimeUs
        + 16 * s.cfg.clkPulseUs + s.cfg.latchPulseUs + (if s.duart.txReady then 0 else max 1 s.duart.txRemain)
        + 44 * s.cfg.byteTimeUs

/-- Frame of the nine request-byte instructions: while the host is quiet (idle, no key and no reset to come, its
transmitter free and its line closed), the cycle leaves the configuration, `UBRR`, every host register, `LOG`,
`DISPLAY`, `RXD` and the inputs it does not use as they were, with `RX_FULL` cleared (10 R20, R46; 20 R75; 43 R162). -/
def Obligations.RequestLeavesTheHostAlone : Prop :=
  ∀ (i : Instr) (b : Byte) (s : State),
    (i, b) ∈ ([(.zoneSelect1, 0x31), (.zoneSelect2, 0x32), (.zoneSelect3, 0x33), (.zoneSelect4, 0x34), (.zoneSelect5, 0x35),
      (.zoneSelect6, 0x36), (.zoneSelect7, 0x37), (.zoneSelect8, 0x38)] : List (Instr × Byte))
      ∨ i = .statusOnly b ∧ isZoneDigit b = false →
    hostQuiet s = true → noReset s = true →
    ∃ t : State, exec i s = .next t
      ∧ t.cfg = s.cfg ∧ t.host = s.host ∧ t.line = s.line ∧ t.out = s.out
      ∧ t.duart.ubrr = s.duart.ubrr ∧ t.duart.rxd = s.duart.rxd ∧ t.duart.rxFull = false
      ∧ t.env.keys = s.env.keys ∧ t.env.resets = s.env.resets ∧ t.env.chanH2D = s.env.chanH2D
      ∧ t.env.port = s.env.port ∧ t.env.wrOk = s.env.wrOk ∧ t.env.clock = s.env.clock ∧ t.env.intr = s.env.intr

/-- R183, R128, R70: a cycle whose read did not end `Ok` keeps the held temperature, humidity and validity; one whose
read did leaves those of the frame it received, whose checksum matches. -/
def Obligations.FailedReadKeepsTheHeldValues : Prop :=
  ∀ (b : Byte) (s : State), configLegal s.cfg = true → noReset s = true →
    let t := deviceCycle b s
    if t.dec.result = .ok then
      t.dec.bitIdx = s.cfg.nBits ∧ t.dec.tempValid = true
      ∧ decodeFrame t.dec.frame = some ⟨t.dec.tempTenths.toInt, t.dec.humTenths.toNat⟩
    else t.dec.tempTenths = s.dec.tempTenths ∧ t.dec.humTenths = s.dec.humTenths ∧ t.dec.tempValid = s.dec.tempValid

/-- R253: what a read leaves behind, by its result: the bits received and the timer at its bound after a timeout. -/
def Obligations.ErrorRecordOfARead : Prop :=
  ∀ (b : Byte) (s : State), configLegal s.cfg = true → noReset s = true →
    let t := deviceCycle b s
    match t.dec.result with
    | .noResponse => t.dec.bitIdx = 0 ∧ t.dec.tmrCnt = s.cfg.timerBoundUs
    | .timingTimeout => t.dec.bitIdx < s.cfg.nBits ∧ t.dec.tmrCnt = s.cfg.timerBoundUs
    | .checksumError => t.dec.bitIdx = s.cfg.nBits ∧ checksumOk t.dec.frame = false
    | .ok => t.dec.bitIdx = s.cfg.nBits ∧ checksumOk t.dec.frame = true

/-- R136, R124: with the wire released throughout the start signal and one timer bound, or held low throughout, the
read ends in `NoResponse` with no bit received; with a wire that follows the handshake and some bits, fewer than all,
and then stays at one level for one timer bound, it ends in `TimingTimeout` with those bits received; either way the
held values stay. With no bit and a low wire the second is the third stuck line of R136. -/
def Obligations.StuckWireGivesNoFrame : Prop :=
  ∀ (b : Byte) (s : State) (low : Bool) (n : Nat) (rest : List Segment), configLegal s.cfg = true → noReset s = true →
    (s.cfg.tStartUs + s.cfg.timerBoundUs ≤ n → s.env.sensor = drive low n ++ rest →
      (deviceCycle b s).dec.result = .noResponse ∧ (deviceCycle b s).dec.bitIdx = 0
      ∧ (deviceCycle b s).dec.tempTenths = s.dec.tempTenths ∧ (deviceCycle b s).dec.humTenths = s.dec.humTenths
      ∧ (deviceCycle b s).dec.tempValid = s.dec.tempValid)
    ∧ (∀ (w : Widths) (bits : List Bool), widthsLegal s.cfg w = true → bits.length < s.cfg.nBits →
      s.cfg.timerBoundUs ≤ n → s.env.sensor = breakOffScript s.cfg w bits low n ++ rest →
      (deviceCycle b s).dec.result = .timingTimeout ∧ (deviceCycle b s).dec.bitIdx = bits.length
      ∧ (deviceCycle b s).dec.tmrCnt = s.cfg.timerBoundUs
      ∧ (deviceCycle b s).dec.tempTenths = s.dec.tempTenths ∧ (deviceCycle b s).dec.humTenths = s.dec.humTenths
      ∧ (deviceCycle b s).dec.tempValid = s.dec.tempValid)

/-- R135: with a well-behaved sensor the cycle's read receives the frame bit for bit and ends as `decode_frame` of it:
a matching frame gives its temperature and humidity, any other `ChecksumError` and the held values. -/
def Obligations.WellBehavedSensorIsDecoded : Prop :=
  ∀ (b : Byte) (s : State) (w : Widths) (f : BitVec 40) (rest : List Segment),
    configLegal s.cfg = true → s.cfg.nBits = 40 → noReset s = true → widthsLegal s.cfg w = true →
    s.env.sensor = sensorScript s.cfg w f ++ rest →
    let t := deviceCycle b s
    t.dec.frame = f ∧ t.dec.bitIdx = 40
    ∧ (∀ r : Reading, decodeFrame f = some r →
        t.dec.result = .ok ∧ t.dec.tempTenths.toInt = r.temp ∧ t.dec.humTenths.toNat = r.hum ∧ t.dec.tempValid = true)
    ∧ (decodeFrame f = none →
        t.dec.result = .checksumError ∧ t.dec.tempTenths = s.dec.tempTenths ∧ t.dec.humTenths = s.dec.humTenths)

/-! ### The serial line -/

/-- R163: a byte that comes while `RX_FULL = 0` is latched; one that comes while a byte is unread is lost and `RXD`
keeps the older one; no other register changes, no error flag is set. -/
def Obligations.OverrunKeepsTheOlderByte : Prop :=
  ∀ (c : Byte) (s : State),
    (s.duart.rxFull = false → deviceReceive c s = { s with duart.rxd := c, duart.rxFull := true })
    ∧ (s.duart.rxFull = true → deviceReceive c s = s)

/-- R171: the host's queue takes a byte while the line is open and the queue has room; otherwise the byte is lost. -/
def Obligations.HostQueueNeedsAnOpenLine : Prop :=
  ∀ (c : Byte) (s : State),
    (s.host.lineOpen = true → s.host.hrxdQ.length < s.cfg.hostFifoDepth →
      hostReceive c s = { s with host.hrxdQ := s.host.hrxdQ ++ [c] })
    ∧ (s.host.lineOpen = false ∨ s.cfg.hostFifoDepth ≤ s.host.hrxdQ.length → hostReceive c s = s)

/-- R160, R161, R165, R166: a byte written to `TXD` is in flight for exactly `BYTE_TIME_US` ticks of the transmitter,
which is ready again when it has left; then the channel's choice for it is made, a scripted one or else that of
`env.chan` (log 2): lost, and nothing arrives, or a byte, which is given to the host's receiver. -/
def Obligations.FlightTakesOneByteTime : Prop :=
  ∀ (b : Byte) (s : State) (n : Nat), 1 ≤ s.cfg.byteTimeUs →
    (n < s.cfg.byteTimeUs →
      Nat.iterate deviceTransmit n (sendByte b s) =
        { s with duart.txd := b, duart.txReady := false, duart.txRemain := s.cfg.byteTimeUs - n })
    ∧ (let landed : State := { s with duart.txd := b, duart.txReady := true, duart.txRemain := 0
                                      env.chanD2H := s.env.chanD2H.tail }
      Nat.iterate deviceTransmit s.cfg.byteTimeUs (sendByte b s) =
        match s.env.chanD2H with
        | none :: _ => landed
        | some c :: _ => hostReceive c landed
        | [] =>
          match Config.envChan .d2h b s.now with
          | none => landed
          | some c => hostReceive c landed)

/-- R168, R165, R166: the same of a byte the host writes: exactly `BYTE_TIME_US` ticks of its transmitter, then lost or
given to the device's receiver; and a byte in flight when the device lost power, at whatever tick of its flight, is
counted to the flight's end and arrives nowhere (R261; log 13). -/
def Obligations.HostFlightTakesOneByteTime : Prop :=
  ∀ (b : Byte) (s : State) (n : Nat), 1 ≤ s.cfg.byteTimeUs →
    (n < s.cfg.byteTimeUs →
      Nat.iterate hostTransmit n (hostWriteByte b s) =
        { s with host.htxd := b, host.htxReady := false, host.htxRemain := s.cfg.byteTimeUs - n, line.h2dLost := false })
    ∧ (let landed : State := { s with host.htxd := b, host.htxReady := true, host.htxRemain := 0, line.h2dLost := false
                                      env.chanH2D := s.env.chanH2D.tail }
      Nat.iterate hostTransmit s.cfg.byteTimeUs (hostWriteByte b s) =
        match s.env.chanH2D with
        | none :: _ => landed
        | some c :: _ => deviceReceive c landed
        | [] =>
          match Config.envChan .h2d b s.now with
          | none => landed
          | some c => deviceReceive c landed)
    ∧ (s.host.htxReady = false →
      (∀ k : Nat, k < max 1 s.host.htxRemain →
        Nat.iterate hostTransmit k (deviceReset s) = { deviceReset s with host.htxRemain := s.host.htxRemain - k })
      ∧ Nat.iterate hostTransmit (max 1 s.host.htxRemain) (deviceReset s) =
          { deviceReset s with host.htxReady := true, host.htxRemain := 0, line.h2dLost := false })

/-- R64, R160, R189: a response leaves first byte first, one byte for each byte time: from the first write on `TXD`
holds byte `k` of `TXMSG` for the byte time number `k`, `TXIDX` counts it, and the device awaits a request again at the
tick the last byte is written and not before. That it then stands still for the rest of that byte time also when a
request byte is latched, which the spec's device would take at once (R72, R181), is the model's order of steps, log 1:
the run is one of `ticks`, and a step takes the byte before it lets time pass. -/
def Obligations.ResponseLeavesInOrder : Prop :=
  ∀ s : State, configLegal s.cfg = true → s.dev.state = .respond → s.dev.yielded = false → s.dev.txIdx = 0 →
    0 < s.dev.txLen → s.dev.txLen ≤ s.dev.txMsg.length → s.duart.txReady = true →
    ∀ k m : Nat, k < s.dev.txLen → m < s.cfg.byteTimeUs →
      let t := ticks (k * s.cfg.byteTimeUs + m) (deviceRun s)
      s.dev.txMsg[k]? = some t.duart.txd ∧ t.dev.txIdx = k + 1
      ∧ t.duart.txReady = false ∧ t.duart.txRemain = s.cfg.byteTimeUs - m
      ∧ (t.dev.state = if k + 1 = s.dev.txLen then .awaitRequest else .respond)
      ∧ t.dev.txMsg = s.dev.txMsg ∧ t.dev.txLen = s.dev.txLen

/-- R247, R251, R278: a device that waits for a request stands still at a tick: decoder, controller and actuator do not
move, nothing is written to `TXD` and the transmitter does not become busy. That a byte latched already stays latched at
a tick is the model's order of steps, log 1: a step takes the byte before it lets time pass; the mark of a used-up tick
is the model's own, log 18. -/
def Obligations.AwaitingDeviceStandsStill : Prop :=
  ∀ s : State, s.dev.state = .awaitRequest →
    (tick s).dec = s.dec ∧ (tick s).dev = { s.dev with yielded := false } ∧ (tick s).zact = s.zact
    ∧ (tick s).duart.txd = s.duart.txd ∧ (s.duart.txReady = true → (tick s).duart.txReady = true)
    ∧ (s.duart.rxFull = true → (tick s).duart.rxFull = true ∧ (tick s).duart.rxd = s.duart.rxd)

/-! ### The host -/

/-- R201, R200: key '1' at an idle host whose port is available and ready starts the transaction with `STATUS_REQ_BYTE`
and its `DISP_FLAG` (R10, by default 1): the line is open, the byte is in flight and the blind wait has begun; nothing
else changes but the two answers used up and the model's own mark, clear (log 13). -/
def Obligations.StatusKeySendsTheStatusByte : Prop :=
  ∀ (s : State) (ports readies : List Bool),
    s.host.state = .idle → s.host.htxReady = true → 1 ≤ s.cfg.hostDeadlineUs → 1 ≤ s.cfg.blindWaitUs →
    s.env.port = true :: ports → s.env.wrOk = true :: readies →
    exec .keyHostStatus s = .next { s with
      host := { s.host with
        req := s.cfg.statusReqByte, disp := s.cfg.dispStatus, state := .blind, timer := 1, lineOpen := true, hrxdQ := []
        htxd := s.cfg.statusReqByte, htxReady := false, htxRemain := s.cfg.byteTimeUs }
      line := { h2dLost := false }
      env := { s.env with port := ports, wrOk := readies } }

/-- R201, R202, R205: key '3' with a zone number 1..`N_ZONES` (8 by R9) does the same with the byte `0x30 + n` and with
the `DISP_FLAG` of this command (R10, by default 0); of the mark see there (log 13). That with an `N_ZONES` above 8 the
byte is `0x30 + n` cut to 8 bits is the model's choice, log 33. -/
def Obligations.ZoneKeySendsTheZoneDigit : Prop :=
  ∀ (n : Nat) (s : State) (ports readies : List Bool), 1 ≤ n → n ≤ s.cfg.nZones →
    s.host.state = .idle → s.host.htxReady = true → 1 ≤ s.cfg.hostDeadlineUs → 1 ≤ s.cfg.blindWaitUs →
    s.env.port = true :: ports → s.env.wrOk = true :: readies →
    exec (.keyHostZone n) s = .next { s with
      host := { s.host with
        req := BitVec.ofNat 8 (0x30 + n), disp := s.cfg.dispZone, state := .blind, timer := 1, lineOpen := true, hrxdQ := []
        htxd := BitVec.ofNat 8 (0x30 + n), htxReady := false, htxRemain := s.cfg.byteTimeUs }
      line := { h2dLost := false }
      env := { s.env with port := ports, wrOk := readies } }

/-- R202: a zone number outside 1..`N_ZONES` (8 by R9) ends at once with `InvalidZoneInput` and changes nothing else.
That the refusal moves with another `N_ZONES` is the model's choice, log 33. -/
def Obligations.ZoneKeyOutOfRangeIsRefused : Prop :=
  ∀ (n : Nat) (s : State), s.host.state = .idle → (n < 1 ∨ s.cfg.nZones < n) →
    exec (.keyHostZone n) s = .next { s with host.result := .invalidZoneInput }

/-- R216, R238, R200: without the port both commands end in `PortUnavailable`: the request and its flag are noted, as
the algorithm of R200 does first, the answer of the port is used up, and nothing else changes. What the zone key does
with an `N_ZONES` above 8 is the model's choice, log 33. -/
def Obligations.NoPortEndsTheCommand : Prop :=
  ∀ (i : Instr) (req : Byte) (disp : Bool) (s : State) (ports : List Bool), commandStarts s.cfg i req disp →
    s.host.state = .idle → s.env.port = false :: ports →
    exec i s = .next { s with
      host := { s.host with req := req, disp := disp, result := .portUnavailable }
      env := { s.env with port := ports } }

/-- R94, R93: the keys '2', '4' and 'q' start nothing: every register is as before. -/
def Obligations.KeysThatStartNothing : Prop :=
  ∀ s : State, exec .keyWeather s = .next s ∧ exec .keyReserved s = .next s ∧ exec .keyExit s = .next s

/-- R201 (a command is taken only in `H_IDLE`): during a transaction both commands change nothing (log 12). -/
def Obligations.NoCommandDuringATransaction : Prop :=
  ∀ (n : Nat) (s : State), s.host.state ≠ .idle →
    exec .keyHostStatus s = .next s ∧ exec (.keyHostZone n) s = .next s

/-- R203: for both commands: with the port never ready the host polls for `HOST_DEADLINE_US` ticks, no longer and no
less, then ends in `DeviceNotResponding` with the line released; no byte was written and nothing logged. And with a free
transmitter a port that is ready for the first time at poll `k`, the last one before the deadline included, gets the
request byte at that poll: it is in flight and the blind wait has begun. What the zone key does with an `N_ZONES` above
8 is the model's choice, log 33. -/
def Obligations.WriteDeadlineIsExact : Prop :=
  (∀ (i : Instr) (req : Byte) (disp : Bool) (s : State) (ports : List Bool), commandStarts s.cfg i req disp →
    s.host.state = .idle → 1 ≤ s.cfg.hostDeadlineUs →
    s.env.port = true :: ports → s.env.wrOk = List.replicate s.cfg.hostDeadlineUs false →
    ∃ t : State, exec i s = .next t
      ∧ t.host.req = req ∧ t.host.disp = disp
      ∧ (∀ n : Nat, n < s.cfg.hostDeadlineUs → (ticks n t).host.state = .waitWr ∧ (ticks n t).host.lineOpen = true)
      ∧ (ticks s.cfg.hostDeadlineUs t).host.state = .idle
      ∧ (ticks s.cfg.hostDeadlineUs t).host.result = .deviceNotResponding
      ∧ (ticks s.cfg.hostDeadlineUs t).host.lineOpen = false
      ∧ (ticks s.cfg.hostDeadlineUs t).host.htxd = s.host.htxd
      ∧ (ticks s.cfg.hostDeadlineUs t).out = s.out)
  ∧ ∀ (i : Instr) (req : Byte) (disp : Bool) (s : State) (ports later : List Bool) (k : Nat),
    commandStarts s.cfg i req disp → s.host.state = .idle → s.host.htxReady = true → 1 ≤ s.cfg.blindWaitUs →
    k < s.cfg.hostDeadlineUs → s.env.port = true :: ports → s.env.wrOk = List.replicate k false ++ true :: later →
    ∃ t : State, exec i s = .next t
      ∧ (∀ n : Nat, n < k → (ticks n t).host.state = .waitWr ∧ (ticks n t).host.htxReady = true)
      ∧ (ticks k t).host.state = .blind ∧ (ticks k t).host.timer = 1 ∧ (ticks k t).host.lineOpen = true
      ∧ (ticks k t).host.htxd = req ∧ (ticks k t).host.htxReady = false
      ∧ (ticks k t).host.htxRemain = s.cfg.byteTimeUs ∧ (ticks k t).env.wrOk = later

/-- R206, R207: for both commands: when the request is lost and the device stays silent, the host waits out
`BLIND_WAIT_US` and then `HOST_DEADLINE_US` from the tick of the write, and ends exactly then in `NoIncomingData`;
nothing is logged. What the zone key does with an `N_ZONES` above 8 is the model's choice, log 33. -/
def Obligations.ReadDeadlineIsExact : Prop :=
  ∀ (i : Instr) (req : Byte) (disp : Bool) (s : State) (ports readies : List Bool) (fates : List (Option Byte)),
    commandStarts s.cfg i req disp → s.host.state = .idle → s.host.htxReady = true →
    1 ≤ s.cfg.hostDeadlineUs → 1 ≤ s.cfg.blindWaitUs →
    s.env.port = true :: ports → s.env.wrOk = true :: readies → s.env.chanH2D = none :: fates →
    s.dev.state = .awaitRequest → s.duart.rxFull = false → s.duart.txReady = true →
    ∃ t : State, exec i s = .next t
      ∧ t.host.req = req ∧ t.host.disp = disp ∧ t.host.htxd = req
      ∧ (∀ n : Nat, n < s.cfg.blindWaitUs + s.cfg.hostDeadlineUs → (ticks n t).host.state ≠ .idle)
      ∧ (ticks (s.cfg.blindWaitUs + s.cfg.hostDeadlineUs) t).host.state = .idle
      ∧ (ticks (s.cfg.blindWaitUs + s.cfg.hostDeadlineUs) t).host.result = .noIncomingData
      ∧ (ticks (s.cfg.blindWaitUs + s.cfg.hostDeadlineUs) t).host.lineOpen = false
      ∧ (ticks (s.cfg.blindWaitUs + s.cfg.hostDeadlineUs) t).out = s.out
      ∧ (ticks (s.cfg.blindWaitUs + s.cfg.hostDeadlineUs) t).zact = s.zact

/-- R206 to R213: at the first poll with a byte queued, which is the poll at the very tick the blind wait ends or a
later one before the deadline, the host reads at most `RX_BUF_SIZE` bytes into `HBUF`, filters them, releases the line,
appends one line to the log with the clock's answer, shows the payload if the command asked for it, and is done. -/
def Obligations.ReadEndsTheTransaction : Prop :=
  ∀ (s : State) (clk : DateTime) (clks : List DateTime),
    (s.host.state = .waitRd ∧ s.host.timer < s.cfg.hostDeadlineUs
      ∨ s.host.state = .blind ∧ s.cfg.blindWaitUs ≤ s.host.timer ∧ 0 < s.cfg.hostDeadlineUs) →
    s.host.lineOpen = true →
    1 ≤ s.host.hrxdQ.length → s.env.clock = clk :: clks →
    let text := filterPrintable s.cfg (s.host.hrxdQ.take s.cfg.rxBufSize)
    (hostRun s).out = { log := s.out.log ++ [logLine clk text]
                        display := if s.host.disp then s.out.display ++ [text] else s.out.display }
    ∧ (hostRun s).host.state = .idle ∧ (hostRun s).host.result = .done ∧ (hostRun s).host.lineOpen = false
    ∧ (hostRun s).host.hrxdQ = [] ∧ (hostRun s).host.hLen = min s.host.hrxdQ.length s.cfg.rxBufSize
    ∧ (hostRun s).host.hBuf.take (hostRun s).host.hLen = s.host.hrxdQ.take s.cfg.rxBufSize
    ∧ (hostRun s).env = { s.env with clock := clks }

/-- R217, R203, R206, R207: a transaction once begun always runs to `H_IDLE`, within the two deadlines and the blind
wait, through the end of a read or one of the two deadline errors. First over `ticks`, in which the device takes no new
request (log 1); then over the machine's steps, a device cycle being one step (log 1): with no reset to come every step
from a busy host lets time pass, and unless a key was taken in it, which a host does only after the transaction has
ended (R201), either the transaction has ended or its wait left has fallen by at least the time that passed. And the
blind wait passes whole, over ticks and over steps, whatever the device does, arrives or is queued (R206): until its
timer has counted `BLIND_WAIT_US` the host stays in it, its line open, and each tick counts. -/
def Obligations.EveryTransactionEnds : Prop :=
  (∀ s : State, hostLineHeld s = true → s.host.state ≠ .idle →
    ∃ n : Nat, n ≤ 2 * s.cfg.hostDeadlineUs + s.cfg.blindWaitUs + 1 ∧ hostEnded (ticks n s))
  ∧ (∀ s t : State, hostLineHeld s = true → s.host.state ≠ .idle → noReset s = true → step s = .next t →
    s.now < t.now
    ∧ (t.env.keys = s.env.keys →
        hostEnded t ∨ (t.host.state ≠ .idle ∧ hostWaitLeft t + (t.now - s.now) ≤ hostWaitLeft s)))
  ∧ (∀ (s : State) (n : Nat), s.host.state = .blind → s.host.lineOpen = true → s.host.timer + n ≤ s.cfg.blindWaitUs →
    (ticks n s).host.state = .blind ∧ (ticks n s).host.timer = s.host.timer + n ∧ (ticks n s).host.lineOpen = true)
  ∧ ∀ s t : State, s.host.state = .blind → s.host.lineOpen = true → noReset s = true → step s = .next t →
    s.host.timer + (t.now - s.now) ≤ s.cfg.blindWaitUs →
    t.host.state = .blind ∧ t.host.timer = s.host.timer + (t.now - s.now) ∧ t.host.lineOpen = true

/-- R50, R212: the log is only appended to, by every step, resets included. -/
def Obligations.LogIsOnlyAppendedTo : Prop :=
  ∀ s t : State, step s = .next t → s.out.log <+: t.out.log

/-! ### Invariants -/

/-- R35: `ZMASK` is 0x00 exactly while `CUR_ZONE` is '0', and otherwise `1 << (CUR_ZONE - 0x31)`: every step keeps it.
-/
def Obligations.StepKeepsZonesAgreeing : Prop :=
  ∀ s t : State, zonesAgree s = true → step s = .next t → zonesAgree t = true

/-- R153, R71, R89: every step keeps the actuator following the mask, and so at most one relay is ever energised. -/
def Obligations.StepKeepsTheActuatorFollowing : Prop :=
  ∀ s t : State, zonesAgree s = true → actuatorFollows s = true → step s = .next t →
    zonesAgree t = true ∧ actuatorFollows t = true ∧ atMostOneBit t.zact.zout = true

/-- R199, R261: only a reset switches all relays off: with a relay energised and no reset to come, every step leaves a
relay energised. -/
def Obligations.OnlyAResetSwitchesTheRelaysOff : Prop :=
  ∀ s t : State, zonesAgree s = true → actuatorFollows s = true → noReset s = true → s.zact.zout ≠ 0 →
    step s = .next t → t.zact.zout ≠ 0

/-- R211, R46: every step keeps the line open exactly while a transaction runs. R43: every step keeps the mark of a
lost flight on a flight in progress and on no other, the mark being the model's own, log 13. -/
def Obligations.StepKeepsTheLineHeld : Prop :=
  ∀ s t : State, step s = .next t →
    (hostLineHeld s = true → hostLineHeld t = true) ∧ (markInFlight s = true → markInFlight t = true)

/-- R22, R25, R27: every step keeps the decoder's place, bit count and pin in agreement. -/
def Obligations.StepKeepsTheDecoderInPlace : Prop :=
  ∀ s t : State, decoderInPlace s = true → step s = .next t → decoderInPlace t = true

/-- R23, R24, R37, R41, R45, R46: every step keeps buffers at their sizes and counters in their ranges. R25: with the
decoder in place, `BIT_IDX` stays at most `N_BITS` and its place stays right. -/
def Obligations.StepKeepsBuffersInRange : Prop :=
  ∀ s t : State, buffersInRange s = true → step s = .next t →
    buffersInRange t = true
    ∧ (decoderInPlace s = true → decoderInPlace t = true ∧ t.dec.bitIdx ≤ t.cfg.nBits)

/-- R29, R30, R36: every step keeps the readings in their ranges, and the reset values until the first good read. -/
def Obligations.StepKeepsReadingsInRange : Prop :=
  ∀ s t : State, readingsInRange s = true → step s = .next t → readingsInRange t = true

/-- The properties that every step keeps hold after reset, and the constants and parameters have the values and defaults
of R9 to R13, every number of the source among them, whatever the two free parameters are (logs 3 to 5): of those it
says the constraint that R12 states. The widths 30, 50 and 50 of the sensor's premise are those of R135. -/
def Obligations.ResetMeetsEveryInvariant : Prop :=
  State.reset = State.resetWith Config.reference
  ∧ zonesAgree State.reset = true ∧ actuatorFollows State.reset = true ∧ hostLineHeld State.reset = true
  ∧ markInFlight State.reset = true
  ∧ decoderInPlace State.reset = true ∧ buffersInRange State.reset = true ∧ readingsInRange State.reset = true
  ∧ configLegal State.reset.cfg = true
  ∧ (Config.reference.nBits = 40 ∧ Config.reference.nZones = 8 ∧ Config.reference.ubrr = 47
    ∧ Config.reference.hostDeadlineUs = 1000000 ∧ Config.reference.bitThresholdUs = 30
    ∧ Config.reference.blindWaitUs = Config.reference.hostDeadlineUs
    ∧ Config.reference.dispStatus = true ∧ Config.reference.dispZone = false
    ∧ Config.reference.pulseMaxUs = 100 ∧ Config.reference.tStartMinUs = 1000
    ∧ Config.reference.nominalAckUs = 80 ∧ Config.reference.nominalZeroLoUs = 26
    ∧ Config.reference.nominalZeroHiUs = 28 ∧ Config.reference.nominalOneUs = 70
    ∧ nominalWidths Config.reference = ⟨30, 80, 80, 50, 27, 70, 50⟩
    ∧ Config.reference.timerBoundUs = 255 ∧ Config.reference.tStartUs = 1000 ∧ Config.reference.rxBufSize = 64
    ∧ Config.reference.latchPulseUs = 1 ∧ Config.reference.statusReqByte = 0x30 ∧ Config.reference.clkPulseUs = 1
    ∧ Config.reference.hostFifoDepth = Config.reference.rxBufSize ∧ Config.reference.adcTimeUs = 0
    ∧ Config.reference.printableLo = 0x20 ∧ Config.reference.printableHi = 0x7E
    ∧ Config.reference.sensorMinIntervalUs = 1000000
    ∧ 1 ≤ Config.reference.byteTimeUs
    ∧ -1525 ≤ Config.reference.tempResetTenths ∧ Config.reference.tempResetTenths ≤ 1525)
  ∧ Config.tickUs = 1 ∧ Config.zoneDigitLo = 0x31 ∧ Config.zoneDigitHi = 0x38

/-! ### The machine -/

/-- R260: the value after reset of every register of the table, under any configuration (`UBRR` at its build-time
value, 47 by R9); of `TXMSG` and `HBUF`, which
the table leaves unspecified, nothing is said. -/
def Obligations.ResetTable : Prop :=
  ∀ c : Config,
    (State.resetWith c).dec =
      { swDrive := false, tmrCnt := 0, startCnt := 0, bitIdx := 0, frame := 0, state := .idle, result := .noResponse
        humTenths := 0, tempTenths := BitVec.ofInt 12 c.tempResetTenths, tempValid := false }
    ∧ (State.resetWith c).dec.tempTenths.toInt = c.tempResetTenths
    ∧ (State.resetWith c).dev.state = .awaitRequest ∧ (State.resetWith c).dev.req = 0 ∧ (State.resetWith c).dev.moist = 0
    ∧ (State.resetWith c).dev.curZone = 0x30 ∧ (State.resetWith c).dev.zmask = 0 ∧ (State.resetWith c).dev.tempF = 0
    ∧ (State.resetWith c).dev.txLen = 0 ∧ (State.resetWith c).dev.txIdx = 0
    ∧ (State.resetWith c).zact = { zsr := 0, zout := 0, zdata := false, zclk := false, zlatch := false }
    ∧ (State.resetWith c).duart = { ubrr := c.ubrr, rxd := 0, rxFull := false, txd := 0, txReady := true, txRemain := 0 }
    ∧ (State.resetWith c).host.state = .idle ∧ (State.resetWith c).host.timer = 0 ∧ (State.resetWith c).host.req = 0
    ∧ (State.resetWith c).host.disp = false ∧ (State.resetWith c).host.lineOpen = false
    ∧ (State.resetWith c).host.htxd = 0 ∧ (State.resetWith c).host.htxReady = true
    ∧ (State.resetWith c).host.htxRemain = 0 ∧ (State.resetWith c).host.hrxdQ = []
    ∧ (c = Config.reference → (State.resetWith c).duart.ubrr = 47)
    ∧ (State.resetWith c).host.hLen = 0 ∧ (State.resetWith c).host.result = .none
    ∧ (State.resetWith c).out = { log := [], display := [] } ∧ (State.resetWith c).now = 0

/-- R261: a due reset of the device de-energises every relay, puts every device register at its reset value and loses
the byte in flight, and leaves the host and the log alone; a due reset of the host leaves the device and the log
alone. That the lost request is marked on its flight is the model's choice, log 13; that `LOG` survives a start of the
host its reading, log 14; and that the reset goes before a key due at the same tick its choice, log 16. -/
def Obligations.ResetsAreIndependent : Prop :=
  ∀ (s : State) (r : ResetEvent) (later : List ResetEvent),
    configLegal s.cfg = true → requestPending s = false → s.env.resets = r :: later → r.tick ≤ s.now →
    (r.node = .device → step s = .next { s with
        dec := Decoder.reset s.cfg, dev := Device.reset, zact := Actuator.reset, duart := DeviceUart.reset s.cfg
        line := { h2dLost := !s.host.htxReady }, env := { s.env with resets := later } })
    ∧ (r.node = .host → ∃ t : State, step s = .next t ∧ t.host = HostRegs.reset s.cfg
        ∧ t.line = { h2dLost := false } ∧ t.env = { s.env with resets := later } ∧ t.out.log = s.out.log
        ∧ t.dec = s.dec ∧ t.dev = s.dev ∧ t.zact = s.zact ∧ t.duart = s.duart ∧ t.cfg = s.cfg ∧ t.now = s.now)

/-- A step at a latched request byte runs exactly the instruction the byte decodes to, and one at a due key runs the
key's command on the state without that key (20 R72, 44 R181, 45 R201; logs 1, 16). A due key that is none of the five
is used up and starts nothing (30 R94). With none of these due a step lets one tick pass, with the resets and keys that
its turn holds; with none to come that is the tick of the agents alone, in whatever order the environment lets them move
(00 R7; log 15). -/
def Obligations.StepRunsTheDecodedInstruction : Prop :=
  ∀ s : State, configLegal s.cfg = true →
    (∀ i : Instr, s.dev.state = .awaitRequest → s.duart.rxFull = true → decode ⟨.request, s.duart.rxd, 0⟩ = .ok i →
      step s = exec i s)
    ∧ (∀ (i : Instr) (k : KeyPress) (later : List KeyPress), requestPending s = false → resetPending s = false →
      s.host.state = .idle → s.env.keys = k :: later → k.tick ≤ s.now → decode ⟨.key, k.key, k.entry⟩ = .ok i →
      step s = exec i { s with env.keys := later })
    ∧ (∀ (e : DecodeError) (k : KeyPress) (later : List KeyPress), requestPending s = false → resetPending s = false →
      s.host.state = .idle → s.env.keys = k :: later → k.tick ≤ s.now → decode ⟨.key, k.key, k.entry⟩ = .error e →
      step s = .next { s with env.keys := later })
    ∧ (requestPending s = false → resetPending s = false → dueKey s = none → step s = .next (advance s))
    ∧ (requestPending s = false → noReset s = true → s.env.keys = [] → step s = .next (tick s))

/-- A word placed for the fetch is the next instruction run (log 9). -/
def Obligations.PlacedWordIsRunNext : Prop :=
  ∀ (s : State) (n w : Nat) (i : Instr), configLegal s.cfg = true → 8 ≤ n → decodeTableWord n w = some i →
    step (s.withFetchWord n w) = exec i (s.withFetchWord n w)

/-- R243: under a legal configuration no step stops. -/
def Obligations.NothingIsFatal : Prop :=
  ∀ s : State, configLegal s.cfg = true → ∃ t : State, step s = .next t

/-- R254: a configuration that breaks a constraint is refused before the run; the two bounds of the source are
parameters (R13), 100 and 1000 by default. -/
def Obligations.IllegalConfigurationIsRefused : Prop :=
  ∀ s : State,
    s.cfg.timerBoundUs ≤ s.cfg.pulseMaxUs ∨ s.cfg.tStartUs < s.cfg.tStartMinUs ∨ isZoneDigit s.cfg.statusReqByte = true
      ∨ s.cfg.hostFifoDepth < s.cfg.rxBufSize ∨ s.cfg.rxBufSize < 1 ∨ s.cfg.latchPulseUs < 1 ∨ s.cfg.clkPulseUs < 1
      ∨ s.cfg.byteTimeUs < 1 →
    step s = .refused .illegalConfiguration

/-- R217, R49: the user's interrupt flag is read by no rule; that the taking of keys, the device and the resets do not
read it either is R49's "changes no rule of this spec" and log 27: a step from two states that differ in it alone gives
states that differ in it alone. -/
def Obligations.UserInterruptChangesNothing : Prop :=
  ∀ (s t : State) (v : Bool), step s = .next t →
    step { s with env.intr := v } = .next { t with env.intr := v }
end

