-- ==== Sys2Proof/Laws/State.lean ====
section
/-! SUPPORT. What each update of `State` leaves in each record: for every named operation without a case
distinction, one lemma for each record of the state. -/

namespace Sys2Proof.Machine

/-! ### `clearRxFull` -/

@[simp] theorem clearRxFull_now (s : State) : (clearRxFull s).now = s.now := rfl
@[simp] theorem clearRxFull_cfg (s : State) : (clearRxFull s).cfg = s.cfg := rfl
@[simp] theorem clearRxFull_dec (s : State) : (clearRxFull s).dec = s.dec := rfl
@[simp] theorem clearRxFull_dev (s : State) : (clearRxFull s).dev = s.dev := rfl
@[simp] theorem clearRxFull_zact (s : State) : (clearRxFull s).zact = s.zact := rfl
@[simp] theorem clearRxFull_duart (s : State) : (clearRxFull s).duart = { s.duart with rxFull := false } := rfl
@[simp] theorem clearRxFull_host (s : State) : (clearRxFull s).host = s.host := rfl
@[simp] theorem clearRxFull_line (s : State) : (clearRxFull s).line = s.line := rfl
@[simp] theorem clearRxFull_out (s : State) : (clearRxFull s).out = s.out := rfl
@[simp] theorem clearRxFull_env (s : State) : (clearRxFull s).env = s.env := rfl

/-! ### `latchRxd` -/

@[simp] theorem latchRxd_now (c : Byte) (s : State) : (latchRxd c s).now = s.now := rfl
@[simp] theorem latchRxd_cfg (c : Byte) (s : State) : (latchRxd c s).cfg = s.cfg := rfl
@[simp] theorem latchRxd_dec (c : Byte) (s : State) : (latchRxd c s).dec = s.dec := rfl
@[simp] theorem latchRxd_dev (c : Byte) (s : State) : (latchRxd c s).dev = s.dev := rfl
@[simp] theorem latchRxd_zact (c : Byte) (s : State) : (latchRxd c s).zact = s.zact := rfl
@[simp] theorem latchRxd_duart (c : Byte) (s : State) :
    (latchRxd c s).duart = { s.duart with rxd := c, rxFull := true } := rfl
@[simp] theorem latchRxd_host (c : Byte) (s : State) : (latchRxd c s).host = s.host := rfl
@[simp] theorem latchRxd_line (c : Byte) (s : State) : (latchRxd c s).line = s.line := rfl
@[simp] theorem latchRxd_out (c : Byte) (s : State) : (latchRxd c s).out = s.out := rfl
@[simp] theorem latchRxd_env (c : Byte) (s : State) : (latchRxd c s).env = s.env := rfl

/-! ### `writeTxd` -/

@[simp] theorem writeTxd_now (b : Byte) (s : State) : (writeTxd b s).now = s.now := rfl
@[simp] theorem writeTxd_cfg (b : Byte) (s : State) : (writeTxd b s).cfg = s.cfg := rfl
@[simp] theorem writeTxd_dec (b : Byte) (s : State) : (writeTxd b s).dec = s.dec := rfl
@[simp] theorem writeTxd_dev (b : Byte) (s : State) : (writeTxd b s).dev = s.dev := rfl
@[simp] theorem writeTxd_zact (b : Byte) (s : State) : (writeTxd b s).zact = s.zact := rfl
@[simp] theorem writeTxd_duart (b : Byte) (s : State) :
    (writeTxd b s).duart = { s.duart with txd := b, txReady := false, txRemain := s.cfg.byteTimeUs } := rfl
@[simp] theorem writeTxd_host (b : Byte) (s : State) : (writeTxd b s).host = s.host := rfl
@[simp] theorem writeTxd_line (b : Byte) (s : State) : (writeTxd b s).line = s.line := rfl
@[simp] theorem writeTxd_out (b : Byte) (s : State) : (writeTxd b s).out = s.out := rfl
@[simp] theorem writeTxd_env (b : Byte) (s : State) : (writeTxd b s).env = s.env := rfl

/-! ### `txDone` -/

@[simp] theorem txDone_now (s : State) : (txDone s).now = s.now := rfl
@[simp] theorem txDone_cfg (s : State) : (txDone s).cfg = s.cfg := rfl
@[simp] theorem txDone_dec (s : State) : (txDone s).dec = s.dec := rfl
@[simp] theorem txDone_dev (s : State) : (txDone s).dev = s.dev := rfl
@[simp] theorem txDone_zact (s : State) : (txDone s).zact = s.zact := rfl
@[simp] theorem txDone_duart (s : State) :
    (txDone s).duart = { s.duart with txReady := true, txRemain := 0 } := rfl
@[simp] theorem txDone_host (s : State) : (txDone s).host = s.host := rfl
@[simp] theorem txDone_line (s : State) : (txDone s).line = s.line := rfl
@[simp] theorem txDone_out (s : State) : (txDone s).out = s.out := rfl
@[simp] theorem txDone_env (s : State) : (txDone s).env = s.env := rfl

/-! ### `writeHtxd` -/

@[simp] theorem writeHtxd_now (b : Byte) (s : State) : (writeHtxd b s).now = s.now := rfl
@[simp] theorem writeHtxd_cfg (b : Byte) (s : State) : (writeHtxd b s).cfg = s.cfg := rfl
@[simp] theorem writeHtxd_dec (b : Byte) (s : State) : (writeHtxd b s).dec = s.dec := rfl
@[simp] theorem writeHtxd_dev (b : Byte) (s : State) : (writeHtxd b s).dev = s.dev := rfl
@[simp] theorem writeHtxd_zact (b : Byte) (s : State) : (writeHtxd b s).zact = s.zact := rfl
@[simp] theorem writeHtxd_duart (b : Byte) (s : State) : (writeHtxd b s).duart = s.duart := rfl
@[simp] theorem writeHtxd_host (b : Byte) (s : State) :
    (writeHtxd b s).host = { s.host with htxd := b, htxReady := false, htxRemain := s.cfg.byteTimeUs } := rfl
@[simp] theorem writeHtxd_line (b : Byte) (s : State) : (writeHtxd b s).line = { h2dLost := false } := rfl
@[simp] theorem writeHtxd_out (b : Byte) (s : State) : (writeHtxd b s).out = s.out := rfl
@[simp] theorem writeHtxd_env (b : Byte) (s : State) : (writeHtxd b s).env = s.env := rfl

/-! ### `htxDone` -/

@[simp] theorem htxDone_now (s : State) : (htxDone s).now = s.now := rfl
@[simp] theorem htxDone_cfg (s : State) : (htxDone s).cfg = s.cfg := rfl
@[simp] theorem htxDone_dec (s : State) : (htxDone s).dec = s.dec := rfl
@[simp] theorem htxDone_dev (s : State) : (htxDone s).dev = s.dev := rfl
@[simp] theorem htxDone_zact (s : State) : (htxDone s).zact = s.zact := rfl
@[simp] theorem htxDone_duart (s : State) : (htxDone s).duart = s.duart := rfl
@[simp] theorem htxDone_host (s : State) :
    (htxDone s).host = { s.host with htxReady := true, htxRemain := 0 } := rfl
@[simp] theorem htxDone_line (s : State) : (htxDone s).line = { h2dLost := false } := rfl
@[simp] theorem htxDone_out (s : State) : (htxDone s).out = s.out := rfl
@[simp] theorem htxDone_env (s : State) : (htxDone s).env = s.env := rfl

/-! ### `yieldTick` -/

@[simp] theorem yieldTick_now (s : State) : (yieldTick s).now = s.now := rfl
@[simp] theorem yieldTick_cfg (s : State) : (yieldTick s).cfg = s.cfg := rfl
@[simp] theorem yieldTick_dec (s : State) : (yieldTick s).dec = s.dec := rfl
@[simp] theorem yieldTick_dev (s : State) : (yieldTick s).dev = { s.dev with yielded := true } := rfl
@[simp] theorem yieldTick_zact (s : State) : (yieldTick s).zact = s.zact := rfl
@[simp] theorem yieldTick_duart (s : State) : (yieldTick s).duart = s.duart := rfl
@[simp] theorem yieldTick_host (s : State) : (yieldTick s).host = s.host := rfl
@[simp] theorem yieldTick_line (s : State) : (yieldTick s).line = s.line := rfl
@[simp] theorem yieldTick_out (s : State) : (yieldTick s).out = s.out := rfl
@[simp] theorem yieldTick_env (s : State) : (yieldTick s).env = s.env := rfl

/-! ### `measureStart` -/

@[simp] theorem measureStart_now (d : DecState) (s : State) : (measureStart d s).now = s.now := rfl
@[simp] theorem measureStart_cfg (d : DecState) (s : State) : (measureStart d s).cfg = s.cfg := rfl
@[simp] theorem measureStart_dec (d : DecState) (s : State) :
    (measureStart d s).dec = { s.dec with state := d, tmrCnt := 0 } := rfl
@[simp] theorem measureStart_dev (d : DecState) (s : State) : (measureStart d s).dev = s.dev := rfl
@[simp] theorem measureStart_zact (d : DecState) (s : State) : (measureStart d s).zact = s.zact := rfl
@[simp] theorem measureStart_duart (d : DecState) (s : State) : (measureStart d s).duart = s.duart := rfl
@[simp] theorem measureStart_host (d : DecState) (s : State) : (measureStart d s).host = s.host := rfl
@[simp] theorem measureStart_line (d : DecState) (s : State) : (measureStart d s).line = s.line := rfl
@[simp] theorem measureStart_out (d : DecState) (s : State) : (measureStart d s).out = s.out := rfl
@[simp] theorem measureStart_env (d : DecState) (s : State) : (measureStart d s).env = s.env := rfl

/-! ### `measureCount` -/

@[simp] theorem measureCount_now (s : State) : (measureCount s).now = s.now := rfl
@[simp] theorem measureCount_cfg (s : State) : (measureCount s).cfg = s.cfg := rfl
@[simp] theorem measureCount_dec (s : State) :
    (measureCount s).dec = { s.dec with tmrCnt := s.dec.tmrCnt + 1 } := rfl
@[simp] theorem measureCount_dev (s : State) : (measureCount s).dev = { s.dev with yielded := true } := rfl
@[simp] theorem measureCount_zact (s : State) : (measureCount s).zact = s.zact := rfl
@[simp] theorem measureCount_duart (s : State) : (measureCount s).duart = s.duart := rfl
@[simp] theorem measureCount_host (s : State) : (measureCount s).host = s.host := rfl
@[simp] theorem measureCount_line (s : State) : (measureCount s).line = s.line := rfl
@[simp] theorem measureCount_out (s : State) : (measureCount s).out = s.out := rfl
@[simp] theorem measureCount_env (s : State) : (measureCount s).env = s.env := rfl

/-! ### `finishRead` -/

@[simp] theorem finishRead_now (r : DecResult) (s : State) : (finishRead r s).now = s.now := rfl
@[simp] theorem finishRead_cfg (r : DecResult) (s : State) : (finishRead r s).cfg = s.cfg := rfl
@[simp] theorem finishRead_dec (r : DecResult) (s : State) :
    (finishRead r s).dec = { s.dec with swDrive := false, result := r, state := .done } := rfl
@[simp] theorem finishRead_dev (r : DecResult) (s : State) : (finishRead r s).dev = s.dev := rfl
@[simp] theorem finishRead_zact (r : DecResult) (s : State) : (finishRead r s).zact = s.zact := rfl
@[simp] theorem finishRead_duart (r : DecResult) (s : State) : (finishRead r s).duart = s.duart := rfl
@[simp] theorem finishRead_host (r : DecResult) (s : State) : (finishRead r s).host = s.host := rfl
@[simp] theorem finishRead_line (r : DecResult) (s : State) : (finishRead r s).line = s.line := rfl
@[simp] theorem finishRead_out (r : DecResult) (s : State) : (finishRead r s).out = s.out := rfl
@[simp] theorem finishRead_env (r : DecResult) (s : State) : (finishRead r s).env = s.env := rfl

/-! ### `releaseLine` -/

@[simp] theorem releaseLine_now (s : State) : (releaseLine s).now = s.now := rfl
@[simp] theorem releaseLine_cfg (s : State) : (releaseLine s).cfg = s.cfg := rfl
@[simp] theorem releaseLine_dec (s : State) : (releaseLine s).dec = s.dec := rfl
@[simp] theorem releaseLine_dev (s : State) : (releaseLine s).dev = s.dev := rfl
@[simp] theorem releaseLine_zact (s : State) : (releaseLine s).zact = s.zact := rfl
@[simp] theorem releaseLine_duart (s : State) : (releaseLine s).duart = s.duart := rfl
@[simp] theorem releaseLine_host (s : State) :
    (releaseLine s).host = { s.host with lineOpen := false, hrxdQ := [] } := rfl
@[simp] theorem releaseLine_line (s : State) : (releaseLine s).line = s.line := rfl
@[simp] theorem releaseLine_out (s : State) : (releaseLine s).out = s.out := rfl
@[simp] theorem releaseLine_env (s : State) : (releaseLine s).env = s.env := rfl

/-! ### `abortTransaction` -/

@[simp] theorem abortTransaction_now (e : HostResult) (s : State) : (abortTransaction e s).now = s.now := rfl
@[simp] theorem abortTransaction_cfg (e : HostResult) (s : State) : (abortTransaction e s).cfg = s.cfg := rfl
@[simp] theorem abortTransaction_dec (e : HostResult) (s : State) : (abortTransaction e s).dec = s.dec := rfl
@[simp] theorem abortTransaction_dev (e : HostResult) (s : State) : (abortTransaction e s).dev = s.dev := rfl
@[simp] theorem abortTransaction_zact (e : HostResult) (s : State) : (abortTransaction e s).zact = s.zact := rfl
@[simp] theorem abortTransaction_duart (e : HostResult) (s : State) : (abortTransaction e s).duart = s.duart := rfl
@[simp] theorem abortTransaction_host (e : HostResult) (s : State) :
    (abortTransaction e s).host = { s.host with lineOpen := false, hrxdQ := [], result := e, state := .idle } := rfl
@[simp] theorem abortTransaction_line (e : HostResult) (s : State) : (abortTransaction e s).line = s.line := rfl
@[simp] theorem abortTransaction_out (e : HostResult) (s : State) : (abortTransaction e s).out = s.out := rfl
@[simp] theorem abortTransaction_env (e : HostResult) (s : State) : (abortTransaction e s).env = s.env := rfl

/-! ### `openLine` -/

@[simp] theorem openLine_now (s : State) : (openLine s).now = s.now := rfl
@[simp] theorem openLine_cfg (s : State) : (openLine s).cfg = s.cfg := rfl
@[simp] theorem openLine_dec (s : State) : (openLine s).dec = s.dec := rfl
@[simp] theorem openLine_dev (s : State) : (openLine s).dev = s.dev := rfl
@[simp] theorem openLine_zact (s : State) : (openLine s).zact = s.zact := rfl
@[simp] theorem openLine_duart (s : State) : (openLine s).duart = s.duart := rfl
@[simp] theorem openLine_host (s : State) :
    (openLine s).host = { s.host with lineOpen := true, hrxdQ := [] } := rfl
@[simp] theorem openLine_line (s : State) : (openLine s).line = s.line := rfl
@[simp] theorem openLine_out (s : State) : (openLine s).out = s.out := rfl
@[simp] theorem openLine_env (s : State) : (openLine s).env = s.env := rfl

/-! ### `deviceReset` -/

@[simp] theorem deviceReset_now (s : State) : (deviceReset s).now = s.now := rfl
@[simp] theorem deviceReset_cfg (s : State) : (deviceReset s).cfg = s.cfg := rfl
@[simp] theorem deviceReset_dec (s : State) : (deviceReset s).dec = Decoder.reset s.cfg := rfl
@[simp] theorem deviceReset_dev (s : State) : (deviceReset s).dev = Device.reset := rfl
@[simp] theorem deviceReset_zact (s : State) : (deviceReset s).zact = Actuator.reset := rfl
@[simp] theorem deviceReset_duart (s : State) : (deviceReset s).duart = DeviceUart.reset s.cfg := rfl
@[simp] theorem deviceReset_host (s : State) : (deviceReset s).host = s.host := rfl
@[simp] theorem deviceReset_line (s : State) : (deviceReset s).line = { h2dLost := !s.host.htxReady } := rfl
@[simp] theorem deviceReset_out (s : State) : (deviceReset s).out = s.out := rfl
@[simp] theorem deviceReset_env (s : State) : (deviceReset s).env = s.env := rfl

/-! ### `hostReset` -/

@[simp] theorem hostReset_now (s : State) : (hostReset s).now = s.now := rfl
@[simp] theorem hostReset_cfg (s : State) : (hostReset s).cfg = s.cfg := rfl
@[simp] theorem hostReset_dec (s : State) : (hostReset s).dec = s.dec := rfl
@[simp] theorem hostReset_dev (s : State) : (hostReset s).dev = s.dev := rfl
@[simp] theorem hostReset_zact (s : State) : (hostReset s).zact = s.zact := rfl
@[simp] theorem hostReset_duart (s : State) : (hostReset s).duart = s.duart := rfl
@[simp] theorem hostReset_host (s : State) : (hostReset s).host = HostRegs.reset s.cfg := rfl
@[simp] theorem hostReset_line (s : State) : (hostReset s).line = { h2dLost := false } := rfl
@[simp] theorem hostReset_out (s : State) : (hostReset s).out = { s.out with display := [] } := rfl
@[simp] theorem hostReset_env (s : State) : (hostReset s).env = s.env := rfl

/-! ### `startRead` -/

@[simp] theorem startRead_now (s : State) : (startRead s).now = s.now := rfl
@[simp] theorem startRead_cfg (s : State) : (startRead s).cfg = s.cfg := rfl
@[simp] theorem startRead_dec (s : State) :
    (startRead s).dec = { s.dec with state := .start, frame := 0, bitIdx := 0, swDrive := true, startCnt := 0 } := rfl
@[simp] theorem startRead_dev (s : State) : (startRead s).dev = s.dev := rfl
@[simp] theorem startRead_zact (s : State) : (startRead s).zact = s.zact := rfl
@[simp] theorem startRead_duart (s : State) : (startRead s).duart = s.duart := rfl
@[simp] theorem startRead_host (s : State) : (startRead s).host = s.host := rfl
@[simp] theorem startRead_line (s : State) : (startRead s).line = s.line := rfl
@[simp] theorem startRead_out (s : State) : (startRead s).out = s.out := rfl
@[simp] theorem startRead_env (s : State) : (startRead s).env = s.env := rfl

/-! ### `shiftBit` -/

@[simp] theorem shiftBit_now (d : Nat) (s : State) : (shiftBit d s).now = s.now := rfl
@[simp] theorem shiftBit_cfg (d : Nat) (s : State) : (shiftBit d s).cfg = s.cfg := rfl
@[simp] theorem shiftBit_dec (d : Nat) (s : State) :
    (shiftBit d s).dec = { s.dec with frame := shiftFrame s.dec.frame (classifyBit s.cfg.bitThresholdUs d), bitIdx := s.dec.bitIdx + 1 } := rfl
@[simp] theorem shiftBit_dev (d : Nat) (s : State) : (shiftBit d s).dev = s.dev := rfl
@[simp] theorem shiftBit_zact (d : Nat) (s : State) : (shiftBit d s).zact = s.zact := rfl
@[simp] theorem shiftBit_duart (d : Nat) (s : State) : (shiftBit d s).duart = s.duart := rfl
@[simp] theorem shiftBit_host (d : Nat) (s : State) : (shiftBit d s).host = s.host := rfl
@[simp] theorem shiftBit_line (d : Nat) (s : State) : (shiftBit d s).line = s.line := rfl
@[simp] theorem shiftBit_out (d : Nat) (s : State) : (shiftBit d s).out = s.out := rfl
@[simp] theorem shiftBit_env (d : Nat) (s : State) : (shiftBit d s).env = s.env := rfl

/-! ### `commitFrame` -/

@[simp] theorem commitFrame_now (s : State) : (commitFrame s).now = s.now := rfl
@[simp] theorem commitFrame_cfg (s : State) : (commitFrame s).cfg = s.cfg := rfl
@[simp] theorem commitFrame_dec (s : State) :
    (commitFrame s).dec = { s.dec with
      tempTenths := BitVec.ofInt 12 (frameTemp s.dec.frame), humTenths := BitVec.ofNat 12 (frameHum s.dec.frame)
      tempValid := true } := rfl
@[simp] theorem commitFrame_dev (s : State) : (commitFrame s).dev = s.dev := rfl
@[simp] theorem commitFrame_zact (s : State) : (commitFrame s).zact = s.zact := rfl
@[simp] theorem commitFrame_duart (s : State) : (commitFrame s).duart = s.duart := rfl
@[simp] theorem commitFrame_host (s : State) : (commitFrame s).host = s.host := rfl
@[simp] theorem commitFrame_line (s : State) : (commitFrame s).line = s.line := rfl
@[simp] theorem commitFrame_out (s : State) : (commitFrame s).out = s.out := rfl
@[simp] theorem commitFrame_env (s : State) : (commitFrame s).env = s.env := rfl

/-! ### `formatResponse` -/

@[simp] theorem formatResponse_now (s : State) : (formatResponse s).now = s.now := rfl
@[simp] theorem formatResponse_cfg (s : State) : (formatResponse s).cfg = s.cfg := rfl
@[simp] theorem formatResponse_dec (s : State) : (formatResponse s).dec = s.dec := rfl
@[simp] theorem formatResponse_dev (s : State) :
    (formatResponse s).dev = { s.dev with
      txMsg := writePrefix (responseLine s.dev.tempF.toInt s.dev.moist.toNat s.dev.curZone) s.dev.txMsg
      txLen := (responseLine s.dev.tempF.toInt s.dev.moist.toNat s.dev.curZone).length, txIdx := 0 } := rfl
@[simp] theorem formatResponse_zact (s : State) : (formatResponse s).zact = s.zact := rfl
@[simp] theorem formatResponse_duart (s : State) : (formatResponse s).duart = s.duart := rfl
@[simp] theorem formatResponse_host (s : State) : (formatResponse s).host = s.host := rfl
@[simp] theorem formatResponse_line (s : State) : (formatResponse s).line = s.line := rfl
@[simp] theorem formatResponse_out (s : State) : (formatResponse s).out = s.out := rfl
@[simp] theorem formatResponse_env (s : State) : (formatResponse s).env = s.env := rfl

/-! ### `hostRead` -/

@[simp] theorem hostRead_now (s : State) : (hostRead s).now = s.now := rfl
@[simp] theorem hostRead_cfg (s : State) : (hostRead s).cfg = s.cfg := rfl
@[simp] theorem hostRead_dec (s : State) : (hostRead s).dec = s.dec := rfl
@[simp] theorem hostRead_dev (s : State) : (hostRead s).dev = s.dev := rfl
@[simp] theorem hostRead_zact (s : State) : (hostRead s).zact = s.zact := rfl
@[simp] theorem hostRead_duart (s : State) : (hostRead s).duart = s.duart := rfl
@[simp] theorem hostRead_host (s : State) :
    (hostRead s).host = { s.host with
      hBuf := writePrefix (s.host.hrxdQ.take s.cfg.rxBufSize) s.host.hBuf
      hLen := (s.host.hrxdQ.take s.cfg.rxBufSize).length, hrxdQ := s.host.hrxdQ.drop s.cfg.rxBufSize } := rfl
@[simp] theorem hostRead_line (s : State) : (hostRead s).line = s.line := rfl
@[simp] theorem hostRead_out (s : State) : (hostRead s).out = s.out := rfl
@[simp] theorem hostRead_env (s : State) : (hostRead s).env = s.env := rfl

/-! ### `elapse` -/

@[simp] theorem elapse_now (s : State) : (elapse s).now = s.now + 1 := rfl
@[simp] theorem elapse_cfg (s : State) : (elapse s).cfg = s.cfg := rfl
@[simp] theorem elapse_dec (s : State) : (elapse s).dec = s.dec := rfl
@[simp] theorem elapse_dev (s : State) : (elapse s).dev = { s.dev with yielded := false } := rfl
@[simp] theorem elapse_zact (s : State) : (elapse s).zact = s.zact := rfl
@[simp] theorem elapse_duart (s : State) : (elapse s).duart = s.duart := rfl
@[simp] theorem elapse_host (s : State) : (elapse s).host = s.host := rfl
@[simp] theorem elapse_line (s : State) : (elapse s).line = s.line := rfl
@[simp] theorem elapse_out (s : State) : (elapse s).out = s.out := rfl
@[simp] theorem elapse_env (s : State) :
    (elapse s).env = { s.env with sensor := sensorElapse s.env.sensor, turns := s.env.turns.tail } := rfl

/-! ### `dropKey` -/

@[simp] theorem dropKey_now (s : State) : (dropKey s).now = s.now := rfl
@[simp] theorem dropKey_cfg (s : State) : (dropKey s).cfg = s.cfg := rfl
@[simp] theorem dropKey_dec (s : State) : (dropKey s).dec = s.dec := rfl
@[simp] theorem dropKey_dev (s : State) : (dropKey s).dev = s.dev := rfl
@[simp] theorem dropKey_zact (s : State) : (dropKey s).zact = s.zact := rfl
@[simp] theorem dropKey_duart (s : State) : (dropKey s).duart = s.duart := rfl
@[simp] theorem dropKey_host (s : State) : (dropKey s).host = s.host := rfl
@[simp] theorem dropKey_line (s : State) : (dropKey s).line = s.line := rfl
@[simp] theorem dropKey_out (s : State) : (dropKey s).out = s.out := rfl
@[simp] theorem dropKey_env (s : State) : (dropKey s).env = { s.env with keys := s.env.keys.tail } := rfl

/-! ### `withFetchWord`, the definition being under the name of `State` -/

@[simp] theorem withFetchWord_dev (s : State) (n w : Nat) :
    (s.withFetchWord n w).dev = { s.dev with state := .awaitRequest } := rfl
@[simp] theorem withFetchWord_duart (s : State) (n w : Nat) :
    (s.withFetchWord n w).duart = { s.duart with rxd := BitVec.ofNat 8 w, rxFull := true } := rfl
@[simp] theorem withFetchWord_cfg (s : State) (n w : Nat) : (s.withFetchWord n w).cfg = s.cfg := rfl

end Sys2Proof.Machine
end

