-- ==== Sys2Proof/Laws/Ops.lean ====
section
/-! SUPPORT. What the shared operations with a case distinction can do: for each, one lemma that names every
outcome, and the records it leaves alone. -/

namespace Sys2Proof.Machine

/-! ### The actuator (42 R151, R152) -/

theorem setZclk_eq (v : Bool) (s : State) :
    setZclk v s = { s with zact := { s.zact with zclk := v, zsr := (setZclk v s).zact.zsr } } := by
  unfold setZclk; split <;> rfl

theorem setZlatch_eq (v : Bool) (s : State) :
    setZlatch v s = { s with zact := { s.zact with zlatch := v, zout := (setZlatch v s).zact.zout } } := by
  unfold setZlatch; split <;> rfl

@[simp] theorem setZclk_now (v : Bool) (s : State) : (setZclk v s).now = s.now := by rw [setZclk_eq]
@[simp] theorem setZclk_cfg (v : Bool) (s : State) : (setZclk v s).cfg = s.cfg := by rw [setZclk_eq]
@[simp] theorem setZclk_dec (v : Bool) (s : State) : (setZclk v s).dec = s.dec := by rw [setZclk_eq]
@[simp] theorem setZclk_dev (v : Bool) (s : State) : (setZclk v s).dev = s.dev := by rw [setZclk_eq]
@[simp] theorem setZclk_duart (v : Bool) (s : State) : (setZclk v s).duart = s.duart := by rw [setZclk_eq]
@[simp] theorem setZclk_host (v : Bool) (s : State) : (setZclk v s).host = s.host := by rw [setZclk_eq]
@[simp] theorem setZclk_line (v : Bool) (s : State) : (setZclk v s).line = s.line := by rw [setZclk_eq]
@[simp] theorem setZclk_out (v : Bool) (s : State) : (setZclk v s).out = s.out := by rw [setZclk_eq]
@[simp] theorem setZclk_env (v : Bool) (s : State) : (setZclk v s).env = s.env := by rw [setZclk_eq]

@[simp] theorem setZlatch_now (v : Bool) (s : State) : (setZlatch v s).now = s.now := by rw [setZlatch_eq]
@[simp] theorem setZlatch_cfg (v : Bool) (s : State) : (setZlatch v s).cfg = s.cfg := by rw [setZlatch_eq]
@[simp] theorem setZlatch_dec (v : Bool) (s : State) : (setZlatch v s).dec = s.dec := by rw [setZlatch_eq]
@[simp] theorem setZlatch_dev (v : Bool) (s : State) : (setZlatch v s).dev = s.dev := by rw [setZlatch_eq]
@[simp] theorem setZlatch_duart (v : Bool) (s : State) : (setZlatch v s).duart = s.duart := by rw [setZlatch_eq]
@[simp] theorem setZlatch_host (v : Bool) (s : State) : (setZlatch v s).host = s.host := by rw [setZlatch_eq]
@[simp] theorem setZlatch_line (v : Bool) (s : State) : (setZlatch v s).line = s.line := by rw [setZlatch_eq]
@[simp] theorem setZlatch_out (v : Bool) (s : State) : (setZlatch v s).out = s.out := by rw [setZlatch_eq]
@[simp] theorem setZlatch_env (v : Bool) (s : State) : (setZlatch v s).env = s.env := by rw [setZlatch_eq]

/-! ### SignalTimer (40 R110) -/

theorem measurePoll_none {level : Level} {s : State} (h : measurePoll level s = none) :
    s.dec.tmrCnt < s.cfg.timerBoundUs ∧ lineLevel s = level := by
  unfold measurePoll at h
  split at h
  · split at h
    · exact ⟨‹_›, ‹_›⟩
    · cases h
  · cases h

theorem measurePoll_ok {level : Level} {s : State} {d : Nat} (h : measurePoll level s = some (.ok d)) :
    s.dec.tmrCnt < s.cfg.timerBoundUs ∧ lineLevel s ≠ level ∧ d = s.dec.tmrCnt := by
  unfold measurePoll at h
  split at h
  · split at h
    · cases h
    · cases h; exact ⟨‹_›, ‹_›, rfl⟩
  · cases h

theorem measurePoll_sentinel {level : Level} {s : State} (h : measurePoll level s = some .noTransition) :
    s.cfg.timerBoundUs ≤ s.dec.tmrCnt := by
  unfold measurePoll at h
  split at h
  · split at h <;> cases h
  · omega

/-! ### The environment's answers (10 R47 to R49) -/

/-- The moisture sample writes `MOIST` and consumes at most a scripted value; nothing else. -/
theorem sampleMoisture_cases (s : State) :
    (s.env.moisture = [] ∧ sampleMoisture s = { s with dev.moist := Config.envMoisture s.now })
    ∨ ∃ m rest, s.env.moisture = m :: rest
      ∧ sampleMoisture s = { s with dev.moist := m, env.moisture := rest } := by
  unfold sampleMoisture
  split
  · exact .inl ⟨‹_›, rfl⟩
  · exact .inr ⟨_, _, ‹_›, rfl⟩

theorem sampleMoisture_eq (s : State) :
    sampleMoisture s = { s with
      dev := { s.dev with moist := (sampleMoisture s).dev.moist }
      env := { s.env with moisture := s.env.moisture.tail } } := by
  obtain ⟨he, h⟩ | ⟨m, rest, he, h⟩ := sampleMoisture_cases s
  · rw [h]
    obtain ⟨_, _, _, _, _, _, _, _, _, ⟨⟩⟩ := s
    simp_all
  · rw [h]; simp [he]

@[simp] theorem sampleMoisture_now (s : State) : (sampleMoisture s).now = s.now := by rw [sampleMoisture_eq]
@[simp] theorem sampleMoisture_cfg (s : State) : (sampleMoisture s).cfg = s.cfg := by rw [sampleMoisture_eq]
@[simp] theorem sampleMoisture_dec (s : State) : (sampleMoisture s).dec = s.dec := by rw [sampleMoisture_eq]
@[simp] theorem sampleMoisture_zact (s : State) : (sampleMoisture s).zact = s.zact := by rw [sampleMoisture_eq]
@[simp] theorem sampleMoisture_duart (s : State) : (sampleMoisture s).duart = s.duart := by rw [sampleMoisture_eq]
@[simp] theorem sampleMoisture_host (s : State) : (sampleMoisture s).host = s.host := by rw [sampleMoisture_eq]
@[simp] theorem sampleMoisture_line (s : State) : (sampleMoisture s).line = s.line := by rw [sampleMoisture_eq]
@[simp] theorem sampleMoisture_out (s : State) : (sampleMoisture s).out = s.out := by rw [sampleMoisture_eq]
@[simp] theorem sampleMoisture_state (s : State) : (sampleMoisture s).dev.state = s.dev.state := by
  rw [sampleMoisture_eq]

theorem askPort_snd (s : State) : (askPort s).2 = { s with env.port := s.env.port.tail } := by
  unfold askPort; obtain ⟨_, _, _, _, _, _, _, _, _, ⟨⟩⟩ := s; split <;> simp_all

theorem askWrOk_snd (s : State) : (askWrOk s).2 = { s with env.wrOk := s.env.wrOk.tail } := by
  unfold askWrOk; obtain ⟨_, _, _, _, _, _, _, _, _, ⟨⟩⟩ := s; split <;> simp_all

theorem askClock_snd (s : State) : (askClock s).2 = { s with env.clock := s.env.clock.tail } := by
  unfold askClock; obtain ⟨_, _, _, _, _, _, _, _, _, ⟨⟩⟩ := s; split <;> simp_all

theorem askPort_scripted {s : State} {a : Bool} {rest : List Bool} (h : s.env.port = a :: rest) :
    askPort s = (a, { s with env.port := rest }) := by
  unfold askPort; split <;> simp_all

theorem askWrOk_scripted {s : State} {a : Bool} {rest : List Bool} (h : s.env.wrOk = a :: rest) :
    askWrOk s = (a, { s with env.wrOk := rest }) := by
  unfold askWrOk; split <;> simp_all

theorem askClock_scripted {s : State} {a : DateTime} {rest : List DateTime} (h : s.env.clock = a :: rest) :
    askClock s = (a, { s with env.clock := rest }) := by
  unfold askClock; split <;> simp_all

/-! ### The serial line (43 R161, R163, R166, R168, R171) -/

/-- A byte that reaches the device is latched if none is unread, and otherwise lost. -/
theorem deviceReceive_cases (c : Byte) (s : State) :
    (s.duart.rxFull = true ∧ deviceReceive c s = s)
    ∨ (s.duart.rxFull = false ∧ deviceReceive c s = { s with duart.rxd := c, duart.rxFull := true }) := by
  unfold deviceReceive latchRxd; split <;> simp_all

/-- A byte that reaches the host is queued or lost. -/
theorem hostReceive_cases (c : Byte) (s : State) :
    hostReceive c s = s
    ∨ (s.host.lineOpen = true ∧ s.host.hrxdQ.length < s.cfg.hostFifoDepth
      ∧ hostReceive c s = { s with host.hrxdQ := s.host.hrxdQ ++ [c] }) := by
  unfold hostReceive
  split
  · simp_all
  · exact .inl rfl

/-- A delivery to the device uses up a scripted fate and does what the channel's choice says. -/
theorem deliverH2D_cases (b : Byte) (s : State) :
    (chanFate .h2d b s.env.chanH2D s.now = none
      ∧ deliverH2D b s = { s with env.chanH2D := s.env.chanH2D.tail })
    ∨ ∃ c, chanFate .h2d b s.env.chanH2D s.now = some c
      ∧ deliverH2D b s = deviceReceive c { s with env.chanH2D := s.env.chanH2D.tail } := by
  unfold deliverH2D
  split <;> simp_all

/-- A delivery to the host uses up a scripted fate and does what the channel's choice says. -/
theorem deliverD2H_cases (b : Byte) (s : State) :
    (chanFate .d2h b s.env.chanD2H s.now = none
      ∧ deliverD2H b s = { s with env.chanD2H := s.env.chanD2H.tail })
    ∨ ∃ c, chanFate .d2h b s.env.chanD2H s.now = some c
      ∧ deliverD2H b s = hostReceive c { s with env.chanD2H := s.env.chanD2H.tail } := by
  unfold deliverD2H
  split <;> simp_all

/-- The outcome of a device delivery, record by record. -/
theorem deliverH2D_eq (b : Byte) (s : State) :
    deliverH2D b s = { s with
      duart := { s.duart with
        rxd := (deliverH2D b s).duart.rxd, rxFull := (deliverH2D b s).duart.rxFull }
      env := { s.env with chanH2D := s.env.chanH2D.tail } } := by
  obtain ⟨-, h⟩ | ⟨c, -, h⟩ := deliverH2D_cases b s
  · simp [h]
  · obtain ⟨-, h'⟩ | ⟨-, h'⟩ := deviceReceive_cases c { s with env.chanH2D := s.env.chanH2D.tail } <;> simp [h, h']

/-- The outcome of a host delivery, record by record. -/
theorem deliverD2H_eq (b : Byte) (s : State) :
    deliverD2H b s = { s with
      host := { s.host with hrxdQ := (deliverD2H b s).host.hrxdQ }
      env := { s.env with chanD2H := s.env.chanD2H.tail } } := by
  obtain ⟨-, h⟩ | ⟨c, -, h⟩ := deliverD2H_cases b s
  · simp [h]
  · obtain h' | ⟨-, -, h'⟩ := hostReceive_cases c { s with env.chanD2H := s.env.chanD2H.tail } <;> simp [h, h']

/-- The host's queue after a delivery: as before, or with one byte more when the line was open and had room. -/
theorem deliverD2H_queue (b : Byte) (s : State) :
    (deliverD2H b s).host.hrxdQ = s.host.hrxdQ
    ∨ (s.host.lineOpen = true ∧ s.host.hrxdQ.length < s.cfg.hostFifoDepth
      ∧ ∃ c, (deliverD2H b s).host.hrxdQ = s.host.hrxdQ ++ [c]) := by
  obtain ⟨-, h⟩ | ⟨c, -, h⟩ := deliverD2H_cases b s
  · simp [h]
  · obtain h' | ⟨h1, h2, h'⟩ := hostReceive_cases c { s with env.chanD2H := s.env.chanD2H.tail }
    · simp [h, h']
    · exact .inr ⟨h1, h2, c, by simp [h, h']⟩

/-- A latched byte stays latched through a delivery (43 R163). -/
theorem deliverH2D_keeps_latched (b : Byte) (s : State) (hf : s.duart.rxFull = true) :
    (deliverH2D b s).duart = s.duart := by
  obtain ⟨-, h⟩ | ⟨c, -, h⟩ := deliverH2D_cases b s
  · simp [h]
  · simp [h, deviceReceive, hf]

/-- One tick of the device transmitter: nothing, one tick of the flight, or the end of it and a delivery. -/
theorem deviceTransmit_cases (s : State) :
    (s.duart.txReady = true ∧ deviceTransmit s = s)
    ∨ (s.duart.txReady = false ∧ s.duart.txRemain ≤ 1 ∧ deviceTransmit s = deliverD2H s.duart.txd (txDone s))
    ∨ (s.duart.txReady = false ∧ 1 < s.duart.txRemain
      ∧ deviceTransmit s = { s with duart.txRemain := s.duart.txRemain - 1 }) := by
  unfold deviceTransmit
  split
  · exact .inl ⟨‹_›, rfl⟩
  · split
    · exact .inr (.inl ⟨by simp_all, ‹_›, rfl⟩)
    · exact .inr (.inr ⟨by simp_all, by omega, rfl⟩)

/-- One tick of the host transmitter: nothing, one tick of the flight, or its end, with a delivery unless the device
lost power during the flight. -/
theorem hostTransmit_cases (s : State) :
    (s.host.htxReady = true ∧ hostTransmit s = s)
    ∨ (s.host.htxReady = false ∧ s.host.htxRemain ≤ 1 ∧ s.line.h2dLost = true ∧ hostTransmit s = htxDone s)
    ∨ (s.host.htxReady = false ∧ s.host.htxRemain ≤ 1 ∧ s.line.h2dLost = false
      ∧ hostTransmit s = deliverH2D s.host.htxd (htxDone s))
    ∨ (s.host.htxReady = false ∧ 1 < s.host.htxRemain
      ∧ hostTransmit s = { s with host.htxRemain := s.host.htxRemain - 1 }) := by
  unfold hostTransmit
  split
  · exact .inl ⟨‹_›, rfl⟩
  · split
    · split
      · exact .inr (.inl ⟨by simp_all, ‹_›, ‹_›, rfl⟩)
      · exact .inr (.inr (.inl ⟨by simp_all, ‹_›, by simp_all, rfl⟩))
    · exact .inr (.inr (.inr ⟨by simp_all, by omega, rfl⟩))

/-- The device transmitter touches its own flags, the host's queue and the script of its direction. -/
theorem deviceTransmit_eq (s : State) :
    deviceTransmit s = { s with
      duart := { s.duart with
        txReady := (deviceTransmit s).duart.txReady, txRemain := (deviceTransmit s).duart.txRemain }
      host := { s.host with hrxdQ := (deviceTransmit s).host.hrxdQ }
      env := { s.env with chanD2H := (deviceTransmit s).env.chanD2H } } := by
  obtain ⟨-, h⟩ | ⟨-, -, h⟩ | ⟨-, -, h⟩ := deviceTransmit_cases s
  · rw [h]
  · rw [h, deliverD2H_eq]; rfl
  · simp [h]

/-- The host transmitter touches its own flags, the mark of its flight, the device's latch and the script of its
direction. -/
theorem hostTransmit_eq (s : State) :
    hostTransmit s = { s with
      host := { s.host with
        htxReady := (hostTransmit s).host.htxReady, htxRemain := (hostTransmit s).host.htxRemain }
      line := (hostTransmit s).line
      duart := { s.duart with
        rxd := (hostTransmit s).duart.rxd, rxFull := (hostTransmit s).duart.rxFull }
      env := { s.env with chanH2D := (hostTransmit s).env.chanH2D } } := by
  obtain ⟨-, h⟩ | ⟨-, -, -, h⟩ | ⟨-, -, -, h⟩ | ⟨-, -, h⟩ := hostTransmit_cases s
  · rw [h]
  · rw [h]; rfl
  · rw [h, deliverH2D_eq]; rfl
  · simp [h]

@[simp] theorem deviceTransmit_now (s : State) : (deviceTransmit s).now = s.now := by rw [deviceTransmit_eq]
@[simp] theorem deviceTransmit_cfg (s : State) : (deviceTransmit s).cfg = s.cfg := by rw [deviceTransmit_eq]
@[simp] theorem deviceTransmit_dec (s : State) : (deviceTransmit s).dec = s.dec := by rw [deviceTransmit_eq]
@[simp] theorem deviceTransmit_dev (s : State) : (deviceTransmit s).dev = s.dev := by rw [deviceTransmit_eq]
@[simp] theorem deviceTransmit_zact (s : State) : (deviceTransmit s).zact = s.zact := by rw [deviceTransmit_eq]
@[simp] theorem deviceTransmit_line (s : State) : (deviceTransmit s).line = s.line := by rw [deviceTransmit_eq]
@[simp] theorem deviceTransmit_out (s : State) : (deviceTransmit s).out = s.out := by rw [deviceTransmit_eq]

@[simp] theorem deviceTransmit_resets (s : State) : (deviceTransmit s).env.resets = s.env.resets := by
  rw [deviceTransmit_eq]

@[simp] theorem hostTransmit_now (s : State) : (hostTransmit s).now = s.now := by rw [hostTransmit_eq]
@[simp] theorem hostTransmit_cfg (s : State) : (hostTransmit s).cfg = s.cfg := by rw [hostTransmit_eq]
@[simp] theorem hostTransmit_dec (s : State) : (hostTransmit s).dec = s.dec := by rw [hostTransmit_eq]
@[simp] theorem hostTransmit_dev (s : State) : (hostTransmit s).dev = s.dev := by rw [hostTransmit_eq]
@[simp] theorem hostTransmit_zact (s : State) : (hostTransmit s).zact = s.zact := by rw [hostTransmit_eq]
@[simp] theorem hostTransmit_out (s : State) : (hostTransmit s).out = s.out := by rw [hostTransmit_eq]
@[simp] theorem hostTransmit_resets (s : State) : (hostTransmit s).env.resets = s.env.resets := by rw [hostTransmit_eq]

/-! ### Resets (70 R261) -/

/-- A reset taken from the script is that of one node, on the state without it; else nothing happens. -/
theorem takeReset_cases (s : State) :
    takeReset s = s
    ∨ ∃ r rest, s.env.resets = r :: rest ∧ r.tick ≤ s.now
      ∧ takeReset s = resetNode r.node { s with env.resets := rest } := by
  unfold takeReset
  split
  · exact .inl rfl
  · split
    · exact .inr ⟨_, _, ‹_›, ‹_›, rfl⟩
    · exact .inl rfl

theorem takeReset_of_noReset {s : State} (h : noReset s = true) : takeReset s = s := by
  simp only [noReset, List.isEmpty_iff] at h
  simp [takeReset, h]

@[simp] theorem takeReset_now (s : State) : (takeReset s).now = s.now := by
  obtain h | ⟨r, rest, -, -, h⟩ := takeReset_cases s
  · rw [h]
  · rw [h]; cases r.node <;> rfl

@[simp] theorem takeReset_cfg (s : State) : (takeReset s).cfg = s.cfg := by
  obtain h | ⟨r, rest, -, -, h⟩ := takeReset_cases s
  · rw [h]
  · rw [h]; cases r.node <;> rfl

end Sys2Proof.Machine
end

