-- ==== Sys2Proof/Laws/Device.lean ====
section
/-! SUPPORT. What a move of the device can touch, what each move is, and that the moves between two ticks come
to rest (spec/00_scope.md R15; log 19). -/

namespace Sys2Proof.Machine

/-- `t` is `s` but for the decoder, the controller, the actuator, the device's transmitter and the script of the
moisture input: all that the device program can touch between two ticks. -/
def DeviceOnly (s t : State) : Prop :=
  t = { s with
    dec := t.dec, dev := t.dev, zact := t.zact
    duart := { s.duart with txd := t.duart.txd, txReady := t.duart.txReady, txRemain := t.duart.txRemain }
    env := { s.env with moisture := t.env.moisture } }

theorem DeviceOnly.refl (s : State) : DeviceOnly s s := rfl

theorem DeviceOnly.trans {s t u : State} (h : DeviceOnly s t) (k : DeviceOnly t u) : DeviceOnly s u := by
  unfold DeviceOnly at *
  rw [k, h]

theorem DeviceOnly.now {s t : State} (h : DeviceOnly s t) : t.now = s.now := by rw [h]
theorem DeviceOnly.cfg {s t : State} (h : DeviceOnly s t) : t.cfg = s.cfg := by rw [h]
theorem DeviceOnly.host {s t : State} (h : DeviceOnly s t) : t.host = s.host := by rw [h]
theorem DeviceOnly.line {s t : State} (h : DeviceOnly s t) : t.line = s.line := by rw [h]
theorem DeviceOnly.out {s t : State} (h : DeviceOnly s t) : t.out = s.out := by rw [h]
theorem DeviceOnly.ubrr {s t : State} (h : DeviceOnly s t) : t.duart.ubrr = s.duart.ubrr := by rw [h]
theorem DeviceOnly.rxd {s t : State} (h : DeviceOnly s t) : t.duart.rxd = s.duart.rxd := by rw [h]
theorem DeviceOnly.rxFull {s t : State} (h : DeviceOnly s t) : t.duart.rxFull = s.duart.rxFull := by rw [h]
theorem DeviceOnly.sensor {s t : State} (h : DeviceOnly s t) : t.env.sensor = s.env.sensor := by rw [h]
theorem DeviceOnly.chanH2D {s t : State} (h : DeviceOnly s t) : t.env.chanH2D = s.env.chanH2D := by rw [h]
theorem DeviceOnly.chanD2H {s t : State} (h : DeviceOnly s t) : t.env.chanD2H = s.env.chanD2H := by rw [h]
theorem DeviceOnly.port {s t : State} (h : DeviceOnly s t) : t.env.port = s.env.port := by rw [h]
theorem DeviceOnly.wrOk {s t : State} (h : DeviceOnly s t) : t.env.wrOk = s.env.wrOk := by rw [h]
theorem DeviceOnly.clock {s t : State} (h : DeviceOnly s t) : t.env.clock = s.env.clock := by rw [h]
theorem DeviceOnly.keys {s t : State} (h : DeviceOnly s t) : t.env.keys = s.env.keys := by rw [h]
theorem DeviceOnly.resets {s t : State} (h : DeviceOnly s t) : t.env.resets = s.env.resets := by rw [h]
theorem DeviceOnly.turns {s t : State} (h : DeviceOnly s t) : t.env.turns = s.env.turns := by rw [h]
theorem DeviceOnly.intr {s t : State} (h : DeviceOnly s t) : t.env.intr = s.env.intr := by rw [h]

/-! ### The decoder (41 R120) -/

theorem onMeasure_cases (r : Option MeasureResult) (fail : DecResult) (go : Nat → State → State) (s : State) :
    (r = none ∧ onMeasure r fail go s = measureCount s)
    ∨ (∃ d, r = some (.ok d) ∧ onMeasure r fail go s = go d s)
    ∨ (r = some .noTransition ∧ onMeasure r fail go s = finishRead fail s) := by
  obtain _ | ⟨d⟩ | _ := r
  · exact .inl ⟨rfl, rfl⟩
  · exact .inr (.inl ⟨d, rfl, rfl⟩)
  · exact .inr (.inr ⟨rfl, rfl⟩)

theorem nextBit_cases (s : State) :
    (s.dec.bitIdx < s.cfg.nBits ∧ nextBit s = measureStart .bitLow s)
    ∨ (s.cfg.nBits ≤ s.dec.bitIdx ∧ nextBit s = { s with dec.state := .check }) := by
  unfold nextBit
  split
  · exact .inl ⟨‹_›, rfl⟩
  · exact .inr ⟨by omega, rfl⟩

theorem startSignal_cases (s : State) :
    (s.dec.startCnt < s.cfg.tStartUs ∧ startSignal s = yieldTick { s with dec.startCnt := s.dec.startCnt + 1 })
    ∨ (s.cfg.tStartUs ≤ s.dec.startCnt ∧ startSignal s = measureStart .waitResp { s with dec.swDrive := false }) := by
  unfold startSignal
  split
  · exact .inl ⟨‹_›, rfl⟩
  · exact .inr ⟨by omega, rfl⟩

theorem checkFrame_cases (s : State) :
    (checksumOk s.dec.frame = true ∧ checkFrame s = finishRead .ok (commitFrame s))
    ∨ (checksumOk s.dec.frame = false ∧ checkFrame s = finishRead .checksumError s) := by
  unfold checkFrame
  split
  · exact .inl ⟨‹_›, rfl⟩
  · exact .inr ⟨by simp_all, rfl⟩

/-- The outcomes of one move of the decoder, by its state. -/
theorem decoderMove_cases (s : State) :
    (s.dec.state = .idle ∧ decoderMove s = startRead s)
    ∨ (s.dec.state = .start ∧ decoderMove s = startSignal s)
    ∨ (s.dec.state = .waitResp ∧ decoderMove s
        = onMeasure (measureHigh s) .noResponse (fun _ => measureStart .ackLow) s)
    ∨ (s.dec.state = .ackLow ∧ decoderMove s
        = onMeasure (measureLow s) .noResponse (fun _ => measureStart .ackHigh) s)
    ∨ (s.dec.state = .ackHigh ∧ decoderMove s = onMeasure (measureHigh s) .noResponse (fun _ => nextBit) s)
    ∨ (s.dec.state = .bitLow ∧ decoderMove s
        = onMeasure (measureLow s) .timingTimeout (fun _ => measureStart .bitHigh) s)
    ∨ (s.dec.state = .bitHigh ∧ decoderMove s
        = onMeasure (measureHigh s) .timingTimeout (fun d s => nextBit (shiftBit d s)) s)
    ∨ (s.dec.state = .check ∧ decoderMove s = checkFrame s)
    ∨ (s.dec.state = .done ∧ decoderMove s = s) := by
  unfold decoderMove
  cases h : s.dec.state <;> simp

/-- `t` is `s` but for the decoder and the controller's tick mark: all that a move of the decoder can touch. -/
def DecoderOnly (s t : State) : Prop := t = { s with dec := t.dec, dev := { s.dev with yielded := t.dev.yielded } }

theorem DecoderOnly.trans {s t u : State} (h : DecoderOnly s t) (k : DecoderOnly t u) : DecoderOnly s u := by
  unfold DecoderOnly at *
  rw [k, h]

theorem DecoderOnly.deviceOnly {s t : State} (h : DecoderOnly s t) : DeviceOnly s t := by
  unfold DeviceOnly
  rw [h]

theorem nextBit_decoderOnly (s : State) : DecoderOnly s (nextBit s) := by
  obtain ⟨-, h⟩ | ⟨-, h⟩ := nextBit_cases s <;> rw [h] <;> rfl

theorem onMeasure_decoderOnly (r : Option MeasureResult) (fail : DecResult) (go : Nat → State → State) (s : State)
    (hgo : ∀ d, DecoderOnly s (go d s)) : DecoderOnly s (onMeasure r fail go s) := by
  obtain ⟨-, h⟩ | ⟨d, -, h⟩ | ⟨-, h⟩ := onMeasure_cases r fail go s
  · rw [h]; rfl
  · rw [h]; exact hgo d
  · rw [h]; rfl

theorem decoderMove_decoderOnly (s : State) : DecoderOnly s (decoderMove s) := by
  unfold decoderMove
  split
  · rfl
  · unfold startSignal; split <;> rfl
  · exact onMeasure_decoderOnly _ _ _ _ fun _ => rfl
  · exact onMeasure_decoderOnly _ _ _ _ fun _ => rfl
  · exact onMeasure_decoderOnly _ _ _ _ fun _ => nextBit_decoderOnly s
  · exact onMeasure_decoderOnly _ _ _ _ fun _ => rfl
  · exact onMeasure_decoderOnly _ _ _ _ fun d =>
      (show DecoderOnly s (shiftBit d s) from rfl).trans (nextBit_decoderOnly _)
  · unfold checkFrame; split <;> rfl
  · rfl

theorem decoderMove_deviceOnly (s : State) : DeviceOnly s (decoderMove s) := (decoderMove_decoderOnly s).deviceOnly

/-! ### The controller (44 R180, 42 R150) -/

theorem waiting_cases (k : State → State) (s : State) :
    (s.dev.wait = 0 ∧ waiting k s = k s)
    ∨ (s.dev.wait ≠ 0 ∧ waiting k s = yieldTick { s with dev.wait := s.dev.wait - 1 }) := by
  unfold waiting
  split
  · exact .inl ⟨‹_›, rfl⟩
  · exact .inr ⟨‹_›, rfl⟩

theorem zoneUpdate_cases (s : State) :
    (isZoneDigit s.dev.req = true ∧ zoneUpdate s
        = presentBit 7 { s with dev.curZone := s.dev.req, dev.zmask := zoneMask (zoneNumber s.dev.req) })
    ∨ (isZoneDigit s.dev.req = false ∧ zoneUpdate s = convertAndRespond s) := by
  unfold zoneUpdate
  split
  · exact .inl ⟨‹_›, rfl⟩
  · exact .inr ⟨by simp_all, rfl⟩

theorem nextZoneBit_cases (s : State) :
    (s.dev.zIdx = 0 ∧ nextZoneBit s = latchRise s) ∨ (∃ i, s.dev.zIdx = i + 1 ∧ nextZoneBit s = presentBit i s) := by
  unfold nextZoneBit
  split
  · exact .inl ⟨‹_›, rfl⟩
  · exact .inr ⟨_, ‹_›, rfl⟩

/-- A move of `Respond` hands one byte to the idle transmitter, waits for a busy one, or ends the response. -/
theorem sendMove_cases (s : State) :
    (s.dev.txIdx < s.dev.txLen ∧ s.duart.txReady = true ∧ sendMove s
        = { sendByte ((s.dev.txMsg[s.dev.txIdx]?).getD 0) s with dev.txIdx := s.dev.txIdx + 1 })
    ∨ (s.dev.txIdx < s.dev.txLen ∧ s.duart.txReady = false ∧ sendMove s = yieldTick s)
    ∨ (s.dev.txLen ≤ s.dev.txIdx ∧ sendMove s = { s with dev.state := .awaitRequest }) := by
  unfold sendMove
  split
  · split
    · exact .inl ⟨‹_›, ‹_›, rfl⟩
    · exact .inr (.inl ⟨‹_›, by simp_all, rfl⟩)
  · exact .inr (.inr ⟨by omega, rfl⟩)

/-- The outcomes of one move of the device, by its position. -/
theorem deviceMove_cases (s : State) :
    ((s.dev.yielded = true ∨ s.dev.state = .awaitRequest) ∧ deviceMove s = s)
    ∨ (s.dev.yielded = false ∧ s.dev.state = .respond ∧ deviceMove s = sendMove s)
    ∨ (s.dev.yielded = false ∧ s.dev.state = .decodeActuate ∧
        ((s.dev.pos = .read ∧ s.dec.state = .done ∧ deviceMove s = takeResult s)
        ∨ (s.dev.pos = .read ∧ s.dec.state ≠ .done ∧ deviceMove s = decoderMove s)
        ∨ (s.dev.pos = .adc ∧ deviceMove s = waiting zoneUpdate s)
        ∨ (s.dev.pos = .clkHigh ∧ deviceMove s = waiting clockFall s)
        ∨ (s.dev.pos = .clkLow ∧ deviceMove s = waiting nextZoneBit s)
        ∨ (s.dev.pos = .latch ∧ deviceMove s = waiting latchFall s))) := by
  unfold deviceMove
  cases hy : s.dev.yielded
  · cases hs : s.dev.state
    · simp
    · cases hp : s.dev.pos
      · by_cases hd : s.dec.state = .done <;> simp [hd]
      all_goals simp
    · simp
  · simp

theorem presentBit_deviceOnly (i : Nat) (s : State) : DeviceOnly s (presentBit i s) := by
  unfold presentBit; rw [setZclk_eq]; rfl

theorem latchRise_deviceOnly (s : State) : DeviceOnly s (latchRise s) := by
  unfold latchRise; rw [setZlatch_eq]; rfl

theorem clockFall_deviceOnly (s : State) : DeviceOnly s (clockFall s) := by
  unfold clockFall; rw [setZclk_eq]; rfl

theorem latchFall_deviceOnly (s : State) : DeviceOnly s (latchFall s) := by
  unfold latchFall; rw [setZlatch_eq]; rfl

theorem nextZoneBit_deviceOnly (s : State) : DeviceOnly s (nextZoneBit s) := by
  obtain ⟨-, h⟩ | ⟨i, -, h⟩ := nextZoneBit_cases s
  · rw [h]; exact latchRise_deviceOnly s
  · rw [h]; exact presentBit_deviceOnly i s

theorem zoneUpdate_deviceOnly (s : State) : DeviceOnly s (zoneUpdate s) := by
  obtain ⟨-, h⟩ | ⟨-, h⟩ := zoneUpdate_cases s
  · rw [h]
    exact (show DeviceOnly s { s with dev.curZone := s.dev.req, dev.zmask := zoneMask (zoneNumber s.dev.req) } from
      rfl).trans (presentBit_deviceOnly 7 _)
  · rw [h]; rfl

theorem waiting_deviceOnly (k : State → State) (s : State) (hk : DeviceOnly s (k s)) : DeviceOnly s (waiting k s) := by
  obtain ⟨-, h⟩ | ⟨-, h⟩ := waiting_cases k s
  · rw [h]; exact hk
  · rw [h]; rfl

theorem takeResult_deviceOnly (s : State) : DeviceOnly s (takeResult s) := by
  unfold takeResult; rw [sampleMoisture_eq]; rfl

theorem sendMove_deviceOnly (s : State) : DeviceOnly s (sendMove s) := by
  obtain ⟨-, -, h⟩ | ⟨-, -, h⟩ | ⟨-, h⟩ := sendMove_cases s <;> rw [h] <;> rfl

theorem deviceMove_deviceOnly (s : State) : DeviceOnly s (deviceMove s) := by
  obtain ⟨-, h⟩ | ⟨-, -, h⟩ | ⟨-, -, ⟨-, -, h⟩ | ⟨-, -, h⟩ | ⟨-, h⟩ | ⟨-, h⟩ | ⟨-, h⟩ | ⟨-, h⟩⟩ := deviceMove_cases s
  · rw [h]; rfl
  · rw [h]; exact sendMove_deviceOnly s
  · rw [h]; exact takeResult_deviceOnly s
  · rw [h]; exact decoderMove_deviceOnly s
  · rw [h]; exact waiting_deviceOnly _ _ (zoneUpdate_deviceOnly s)
  · rw [h]; exact waiting_deviceOnly _ _ (clockFall_deviceOnly s)
  · rw [h]; exact waiting_deviceOnly _ _ (nextZoneBit_deviceOnly s)
  · rw [h]; exact waiting_deviceOnly _ _ (latchFall_deviceOnly s)

/-- A property kept by every move is kept by any number of moves. -/
theorem deviceMoves_induct {P : State → Prop} (hm : ∀ u, P u → P (deviceMove u)) (n : Nat) {s : State} (h : P s) :
    P (deviceMoves n s) := by
  induction n generalizing s with
  | zero => exact h
  | succ n ih => exact ih (hm s h)

theorem deviceRun_induct {P : State → Prop} (hm : ∀ u, P u → P (deviceMove u)) {s : State} (h : P s) :
    P (deviceRun s) := deviceMoves_induct hm 12 h

theorem deviceRun_deviceOnly (s : State) : DeviceOnly s (deviceRun s) :=
  deviceRun_induct (P := DeviceOnly s) (fun u h => h.trans (deviceMove_deviceOnly u)) (.refl s)

@[simp] theorem deviceRun_now (s : State) : (deviceRun s).now = s.now := (deviceRun_deviceOnly s).now
@[simp] theorem deviceRun_cfg (s : State) : (deviceRun s).cfg = s.cfg := (deviceRun_deviceOnly s).cfg
@[simp] theorem deviceRun_host (s : State) : (deviceRun s).host = s.host := (deviceRun_deviceOnly s).host
@[simp] theorem deviceRun_line (s : State) : (deviceRun s).line = s.line := (deviceRun_deviceOnly s).line
@[simp] theorem deviceRun_out (s : State) : (deviceRun s).out = s.out := (deviceRun_deviceOnly s).out

/-! ### What the device program does not read -/

/-- `s`, with all that the device program neither reads nor writes taken from `o`. -/
def withRest (o s : State) : State :=
  { s with
    host := o.host, line := o.line, out := o.out, duart.rxd := o.duart.rxd, duart.rxFull := o.duart.rxFull
    env := { o.env with sensor := s.env.sensor, moisture := s.env.moisture } }

@[simp] theorem withRest_dec (o s : State) : (withRest o s).dec = s.dec := rfl
@[simp] theorem withRest_dev (o s : State) : (withRest o s).dev = s.dev := rfl

theorem nextBit_withRest (o s : State) : nextBit (withRest o s) = withRest o (nextBit s) := by
  unfold nextBit
  rw [apply_ite (withRest o)]
  rfl

theorem onMeasure_withRest (o s : State) (r : Option MeasureResult) (fail : DecResult) (go : Nat → State → State)
    (hgo : ∀ d, go d (withRest o s) = withRest o (go d s)) :
    onMeasure r fail go (withRest o s) = withRest o (onMeasure r fail go s) := by
  obtain _ | ⟨d⟩ | _ := r
  · rfl
  · exact hgo d
  · rfl

theorem decoderMove_withRest (o s : State) : decoderMove (withRest o s) = withRest o (decoderMove s) := by
  cases h : s.dec.state <;> simp only [decoderMove, withRest_dec, h]
  · rfl
  · unfold startSignal
    rw [apply_ite (withRest o)]
    rfl
  · exact onMeasure_withRest o s (measureHigh s) _ _ fun _ => rfl
  · exact onMeasure_withRest o s (measureLow s) _ _ fun _ => rfl
  · exact onMeasure_withRest o s (measureHigh s) _ _ fun _ => nextBit_withRest o s
  · exact onMeasure_withRest o s (measureLow s) _ _ fun _ => rfl
  · exact onMeasure_withRest o s (measureHigh s) _ _ fun d => nextBit_withRest o (shiftBit d s)
  · unfold checkFrame
    rw [apply_ite (withRest o)]
    rfl

theorem setZclk_withRest (o : State) (v : Bool) (s : State) : setZclk v (withRest o s) = withRest o (setZclk v s) := by
  unfold setZclk
  rw [apply_ite (withRest o)]
  rfl

theorem setZlatch_withRest (o : State) (v : Bool) (s : State) :
    setZlatch v (withRest o s) = withRest o (setZlatch v s) := by
  unfold setZlatch
  rw [apply_ite (withRest o)]
  rfl

theorem presentBit_withRest (o : State) (i : Nat) (s : State) :
    presentBit i (withRest o s) = withRest o (presentBit i s) := by
  have h := setZclk_withRest o true { s with zact.zdata := s.dev.zmask.getLsbD i }
  show (let s' := setZclk true (withRest o { s with zact.zdata := s.dev.zmask.getLsbD i });
    ({ s' with dev.pos := .clkHigh, dev.zIdx := i, dev.wait := s'.cfg.clkPulseUs } : State)) = _
  rw [h]; rfl

theorem takeResult_withRest (o s : State) : takeResult (withRest o s) = withRest o (takeResult s) := by
  have h : sampleMoisture (withRest o { s with dec.state := .idle })
      = withRest o (sampleMoisture { s with dec.state := .idle }) := by
    obtain ⟨_, _, _, _, _, _, _, _, _, ⟨_, _, _, moisture, _, _, _, _, _, _, _⟩⟩ := s
    cases moisture <;> rfl
  show (let s' := sampleMoisture (withRest o { s with dec.state := .idle });
    ({ s' with dev.pos := .adc, dev.wait := s'.cfg.adcTimeUs } : State)) = _
  rw [h]; rfl

theorem waiting_withRest (o : State) {k : State → State} {s : State} (hk : k (withRest o s) = withRest o (k s)) :
    waiting k (withRest o s) = withRest o (waiting k s) := by
  unfold waiting
  rw [apply_ite (withRest o), ← hk]
  rfl

theorem zoneUpdate_withRest (o s : State) : zoneUpdate (withRest o s) = withRest o (zoneUpdate s) := by
  unfold zoneUpdate
  rw [apply_ite (withRest o), ← presentBit_withRest]
  rfl

theorem clockFall_withRest (o s : State) : clockFall (withRest o s) = withRest o (clockFall s) := by
  unfold clockFall
  rw [setZclk_withRest]; rfl

theorem nextZoneBit_withRest (o s : State) : nextZoneBit (withRest o s) = withRest o (nextZoneBit s) := by
  cases h : s.dev.zIdx <;> simp only [nextZoneBit, withRest_dev, h]
  · unfold latchRise
    rw [setZlatch_withRest]; rfl
  · exact presentBit_withRest o _ s

theorem latchFall_withRest (o s : State) : latchFall (withRest o s) = withRest o (latchFall s) := by
  unfold latchFall
  rw [setZlatch_withRest]; rfl

theorem sendMove_withRest (o s : State) : sendMove (withRest o s) = withRest o (sendMove s) := by
  unfold sendMove
  rw [apply_ite (withRest o), apply_ite (withRest o)]
  rfl

/-- A move of the device neither reads nor writes the rest of the machine. -/
theorem deviceMove_withRest (o s : State) : deviceMove (withRest o s) = withRest o (deviceMove s) := by
  unfold deviceMove
  rw [apply_ite (withRest o)]
  congr 1
  cases hs : s.dev.state <;> simp only [withRest_dev, hs]
  · cases hp : s.dev.pos <;> simp only
    · rw [apply_ite (withRest o), ← takeResult_withRest, ← decoderMove_withRest]
      rfl
    · exact waiting_withRest o (zoneUpdate_withRest o s)
    · exact waiting_withRest o (clockFall_withRest o s)
    · exact waiting_withRest o (nextZoneBit_withRest o s)
    · exact waiting_withRest o (latchFall_withRest o s)
  · exact sendMove_withRest o s

/-- The device program neither reads nor writes the rest of the machine. -/
theorem deviceRun_withRest (o s : State) : deviceRun (withRest o s) = withRest o (deviceRun s) := by
  have moves : ∀ (n : Nat) (u : State), deviceMoves n (withRest o u) = withRest o (deviceMoves n u) := by
    intro n
    induction n with
    | zero => exact fun _ => rfl
    | succ n ih =>
      intro u
      show deviceMoves n (deviceMove (withRest o u)) = _
      rw [deviceMove_withRest]; exact ih _
  exact moves 12 s

/-! ### Coming to rest -/

/-- The device does no more before the next tick. -/
def settled (s : State) : Bool := s.dev.yielded || decide (s.dev.state = .awaitRequest)

theorem deviceMove_of_settled {s : State} (h : settled s = true) : deviceMove s = s := by
  simp only [settled, Bool.or_eq_true, decide_eq_true_eq] at h
  obtain ⟨-, k⟩ | ⟨hy, hs, -⟩ | ⟨hy, hs, -⟩ := deviceMove_cases s
  · exact k
  all_goals simp_all

theorem deviceMoves_of_settled (n : Nat) {s : State} (h : settled s = true) : deviceMoves n s = s := by
  induction n with
  | zero => rfl
  | succ n ih => simp only [deviceMoves, deviceMove_of_settled h, ih]

theorem deviceRun_of_settled {s : State} (h : settled s = true) : deviceRun s = s := deviceMoves_of_settled 12 h

theorem deviceRun_of_awaiting {s : State} (h : s.dev.state = .awaitRequest) : deviceRun s = s :=
  deviceRun_of_settled (by simp [settled, h])

/-- At most `n` moves bring the device to rest. -/
def RestsIn (n : Nat) (s : State) : Prop := settled (deviceMoves n s) = true

theorem RestsIn.mono {n m : Nat} (hnm : n ≤ m) {s : State} (h : RestsIn n s) : RestsIn m s := by
  induction n generalizing m s with
  | zero => exact (congrArg settled (deviceMoves_of_settled m h)).trans h
  | succ n ih =>
    obtain ⟨k, rfl⟩ : ∃ k, m = k + 1 := ⟨m - 1, by omega⟩
    exact ih (m := k) (by omega) (s := deviceMove s) h

theorem RestsIn.move {n : Nat} {s t : State} (hm : deviceMove s = t) (h : RestsIn n t) : RestsIn (n + 1) s := by
  subst hm; exact h

theorem restsIn_of_yielded {s : State} (h : s.dev.yielded = true) (n : Nat) : RestsIn n s :=
  RestsIn.mono (Nat.zero_le n) (show settled s = true by simp [settled, h])

theorem restsIn_respond (s : State) (h : s.dev.state = .respond) : RestsIn 2 s := by
  cases hy : s.dev.yielded
  · refine RestsIn.move (t := sendMove s) (by simp [deviceMove, hy, h]) ?_
    obtain ⟨-, -, k⟩ | ⟨-, -, k⟩ | ⟨-, k⟩ := sendMove_cases s <;> rw [k]
    · refine RestsIn.move rfl ?_
      simp only [deviceMove, hy, h, sendByte, writeTxd, sendMove]
      simp only [Bool.false_eq_true, ↓reduceIte]
      split
      · exact restsIn_of_yielded rfl 0
      · exact rfl
    · exact restsIn_of_yielded rfl 1
    · exact RestsIn.mono (n := 0) (by omega) (by simp [RestsIn, deviceMoves, settled])
  · exact restsIn_of_yielded hy 2

/-- A position that waits, with ticks left to wait, is at rest after one move. -/
theorem restsIn_of_wait (s : State) (h : s.dev.state = .decodeActuate) (hp : s.dev.pos ≠ .read)
    (hw : 1 ≤ s.dev.wait) : RestsIn 1 s := by
  cases hy : s.dev.yielded
  · refine RestsIn.move rfl ?_
    refine restsIn_of_yielded ?_ 0
    have hw0 : s.dev.wait ≠ 0 := by omega
    cases hq : s.dev.pos <;> simp_all [deviceMove, waiting, yieldTick]
  · exact restsIn_of_yielded hy 1

/-- A position that waits, in general: what follows the wait decides. -/
theorem RestsIn.waiting {k : State → State} {n : Nat} {s : State} (hm : deviceMove s = waiting k s)
    (h : RestsIn n (k s)) : RestsIn (n + 1) s := by
  refine RestsIn.move hm ?_
  obtain ⟨-, e⟩ | ⟨-, e⟩ := waiting_cases k s <;> rw [e]
  · exact h
  · exact restsIn_of_yielded rfl n

theorem restsIn_actuate (s : State) (hc : 1 ≤ s.cfg.clkPulseUs) (hl : 1 ≤ s.cfg.latchPulseUs)
    (h : s.dev.state = .decodeActuate) (hp : s.dev.pos ≠ .read) : RestsIn 3 s := by
  cases hy : s.dev.yielded
  · have present : ∀ (i : Nat) (u : State), u.cfg = s.cfg → u.dev.state = .decodeActuate → RestsIn 2 (presentBit i u) := by
      intro i u hu hd
      refine RestsIn.mono (n := 1) (by omega) (restsIn_of_wait _ ?_ ?_ ?_)
      · simp [presentBit, hd]
      · simp [presentBit]
      · simpa [presentBit, hu] using hc
    have respond : ∀ u : State, RestsIn 2 (convertAndRespond u) := fun u => restsIn_respond _ rfl
    cases hq : s.dev.pos
    · exact absurd hq hp
    · refine RestsIn.waiting (k := zoneUpdate) (by simp [deviceMove, hy, h, hq]) ?_
      obtain ⟨-, e⟩ | ⟨-, e⟩ := zoneUpdate_cases s <;> rw [e]
      · exact present 7 _ rfl h
      · exact respond s
    · refine RestsIn.waiting (k := clockFall) (by simp [deviceMove, hy, h, hq]) ?_
      refine RestsIn.mono (n := 1) (by omega) (restsIn_of_wait _ ?_ ?_ ?_)
      · simp [clockFall, h]
      · simp [clockFall]
      · simpa [clockFall] using hc
    · refine RestsIn.waiting (k := nextZoneBit) (by simp [deviceMove, hy, h, hq]) ?_
      obtain ⟨-, e⟩ | ⟨i, -, e⟩ := nextZoneBit_cases s <;> rw [e]
      · refine RestsIn.mono (n := 1) (by omega) (restsIn_of_wait _ ?_ ?_ ?_)
        · simp [latchRise, h]
        · simp [latchRise]
        · simpa [latchRise] using hl
      · exact present i _ rfl h
    · exact RestsIn.waiting (k := latchFall) (by simp [deviceMove, hy, h, hq]) (respond _)
  · exact restsIn_of_yielded hy 3

theorem restsIn_done (s : State) (hc : 1 ≤ s.cfg.clkPulseUs) (hl : 1 ≤ s.cfg.latchPulseUs)
    (h : s.dev.state = .decodeActuate) (hp : s.dev.pos = .read) (hd : s.dec.state = .done) : RestsIn 4 s := by
  cases hy : s.dev.yielded
  · refine RestsIn.move (t := takeResult s) (by simp [deviceMove, hy, h, hp, hd]) ?_
    refine restsIn_actuate _ ?_ ?_ ?_ ?_
    · simpa [takeResult] using hc
    · simpa [takeResult] using hl
    · simpa [takeResult] using h
    · simp [takeResult]
  · exact restsIn_of_yielded hy 4

theorem restsIn_check (s : State) (hc : 1 ≤ s.cfg.clkPulseUs) (hl : 1 ≤ s.cfg.latchPulseUs)
    (h : s.dev.state = .decodeActuate) (hp : s.dev.pos = .read) (hd : s.dec.state = .check) : RestsIn 5 s := by
  cases hy : s.dev.yielded
  · refine RestsIn.move (t := checkFrame s) (by simp [deviceMove, hy, h, hp, hd, decoderMove]) ?_
    obtain ⟨-, e⟩ | ⟨-, e⟩ := checkFrame_cases s <;> rw [e] <;> exact restsIn_done _ hc hl h hp rfl
  · exact restsIn_of_yielded hy 5

/-- A measurement just started, with the line at the level it waits out, counts at once. -/
theorem restsIn_of_measure {s : State} (h : s.dev.state = .decodeActuate) (hp : s.dev.pos = .read)
    (hm : decoderMove s = measureCount s) (hd : s.dec.state ≠ .done) : RestsIn 1 s := by
  cases hy : s.dev.yielded
  · exact RestsIn.move (t := measureCount s) (by simp [deviceMove, hy, h, hp, hd, hm]) (restsIn_of_yielded rfl 0)
  · exact restsIn_of_yielded hy 1

theorem lineLevel_other {s : State} {l m : Level} (h : lineLevel s ≠ l) (hlm : l ≠ m) : lineLevel s = m := by
  cases hs : lineLevel s <;> cases l <;> cases m <;> simp_all

/-- A measurement state just entered, with the line at the level it waits out, counts at once. -/
theorem restsIn_just_started {s : State} (ht : 1 ≤ s.cfg.timerBoundUs) (h : s.dev.state = .decodeActuate)
    (hp : s.dev.pos = .read) (h0 : s.dec.tmrCnt = 0)
    (hd : lineLevel s = .low ∧ (s.dec.state = .ackLow ∨ s.dec.state = .bitLow)
      ∨ lineLevel s = .high ∧ (s.dec.state = .ackHigh ∨ s.dec.state = .bitHigh)) : RestsIn 1 s := by
  have poll : ∀ l, lineLevel s = l → measurePoll l s = none := fun l hl => by
    rw [measurePoll, h0, if_pos (by omega), if_pos hl]
  rcases hd with ⟨hl, e | e⟩ | ⟨hl, e | e⟩
  · exact restsIn_of_measure h hp (by simp only [decoderMove, e, measureLow, poll _ hl, onMeasure]) (by simp [e])
  · exact restsIn_of_measure h hp (by simp only [decoderMove, e, measureLow, poll _ hl, onMeasure]) (by simp [e])
  · exact restsIn_of_measure h hp (by simp only [decoderMove, e, measureHigh, poll _ hl, onMeasure]) (by simp [e])
  · exact restsIn_of_measure h hp (by simp only [decoderMove, e, measureHigh, poll _ hl, onMeasure]) (by simp [e])

/-- The next bit of a frame, entered with the line low, or the check. -/
theorem restsIn_nextBit (s : State) (ht : 1 ≤ s.cfg.timerBoundUs) (hc : 1 ≤ s.cfg.clkPulseUs)
    (hl : 1 ≤ s.cfg.latchPulseUs) (h : s.dev.state = .decodeActuate) (hp : s.dev.pos = .read)
    (hlev : lineLevel s = .low) : RestsIn 5 (nextBit s) := by
  obtain ⟨-, e⟩ | ⟨-, e⟩ := nextBit_cases s <;> rw [e]
  · exact (restsIn_just_started (s := measureStart .bitLow s) ht h hp rfl (.inl ⟨hlev, .inr rfl⟩)).mono (by omega)
  · exact restsIn_check _ hc hl h hp rfl

/-- A measurement comes to rest if what follows it does. -/
theorem restsIn_onMeasure {level : Level} {fail : DecResult} {go : Nat → State → State} (s : State)
    (hc : 1 ≤ s.cfg.clkPulseUs) (hl : 1 ≤ s.cfg.latchPulseUs) (h : s.dev.state = .decodeActuate)
    (hp : s.dev.pos = .read) (hgo : ∀ d, lineLevel s ≠ level → RestsIn 5 (go d s)) :
    RestsIn 5 (onMeasure (measurePoll level s) fail go s) := by
  obtain ⟨-, k⟩ | ⟨d, hr, k⟩ | ⟨-, k⟩ := onMeasure_cases (measurePoll level s) fail go s <;> rw [k]
  · exact restsIn_of_yielded rfl 5
  · exact hgo d (measurePoll_ok hr).2.1
  · exact RestsIn.mono (n := 4) (by omega) (restsIn_done _ hc hl h hp rfl)

/-- A phase of the read that is being measured comes to rest within six moves. -/
theorem restsIn_measuring (s : State) (ht : 1 ≤ s.cfg.timerBoundUs) (hc : 1 ≤ s.cfg.clkPulseUs)
    (hl : 1 ≤ s.cfg.latchPulseUs) (h : s.dev.state = .decodeActuate) (hp : s.dev.pos = .read)
    (hd : s.dec.state = .waitResp ∨ s.dec.state = .ackLow ∨ s.dec.state = .ackHigh ∨ s.dec.state = .bitLow
      ∨ s.dec.state = .bitHigh) : RestsIn 6 s := by
  cases hy : s.dev.yielded
  swap
  · exact restsIn_of_yielded hy 6
  have mv : deviceMove s = decoderMove s := by
    rcases hd with e | e | e | e | e <;> simp [deviceMove, hy, h, hp, e]
  have low : lineLevel s ≠ .high → lineLevel s = .low := fun k => lineLevel_other k (by decide)
  have high : lineLevel s ≠ .low → lineLevel s = .high := fun k => lineLevel_other k (by decide)
  refine RestsIn.move mv ?_
  rcases hd with e | e | e | e | e <;> simp only [decoderMove, e, measureHigh, measureLow] <;>
    refine restsIn_onMeasure s hc hl h hp fun d k => ?_
  · exact (restsIn_just_started (s := measureStart .ackLow s) ht h hp rfl (.inl ⟨low k, .inl rfl⟩)).mono (by omega)
  · exact (restsIn_just_started (s := measureStart .ackHigh s) ht h hp rfl (.inr ⟨high k, .inl rfl⟩)).mono (by omega)
  · exact restsIn_nextBit s ht hc hl h hp (low k)
  · exact (restsIn_just_started (s := measureStart .bitHigh s) ht h hp rfl (.inr ⟨high k, .inr rfl⟩)).mono (by omega)
  · exact restsIn_nextBit (shiftBit d s) ht hc hl h hp (low k)

/-- Under a legal configuration the device comes to rest between two ticks, whatever its state: twelve moves are
more than enough (00 R15; log 19). -/
theorem deviceRun_settles (s : State) (hc : configLegal s.cfg = true) : settled (deviceRun s) = true := by
  simp only [configLegal, Bool.and_eq_true, decide_eq_true_eq] at hc
  obtain ⟨⟨⟨⟨⟨⟨⟨ht, -⟩, -⟩, -⟩, -⟩, hl⟩, hk⟩, -⟩ := hc
  have ht1 : 1 ≤ s.cfg.timerBoundUs := by omega
  show RestsIn 12 s
  cases hy : s.dev.yielded
  swap
  · exact restsIn_of_yielded hy 12
  cases h : s.dev.state
  · exact RestsIn.mono (n := 0) (by omega) (by simp [RestsIn, deviceMoves, settled, h])
  swap
  · exact (restsIn_respond s h).mono (by omega)
  by_cases hp : s.dev.pos = .read
  swap
  · exact (restsIn_actuate s hk hl h hp).mono (by omega)
  have start : ∀ u : State, u.cfg = s.cfg → u.dev = s.dev → u.dec.state = .start → RestsIn 7 u := by
    intro u hu hv hs
    refine RestsIn.move (t := startSignal u) (by simp [deviceMove, hv, hy, h, hp, hs, decoderMove]) ?_
    obtain ⟨-, e⟩ | ⟨-, e⟩ := startSignal_cases u <;> rw [e]
    · exact restsIn_of_yielded rfl 6
    · exact restsIn_measuring _ (hu ▸ ht1) (hu ▸ hk) (hu ▸ hl) (hv ▸ h) (hv ▸ hp) (.inl rfl)
  cases hd : s.dec.state
  · refine RestsIn.mono (n := 8) (by omega) (RestsIn.move (t := startRead s) ?_ (start _ rfl rfl rfl))
    simp [deviceMove, hy, h, hp, hd, decoderMove]
  · exact (start s rfl rfl hd).mono (by omega)
  iterate 5 exact (restsIn_measuring s ht1 hk hl h hp (by simp [hd])).mono (by omega)
  · exact (restsIn_check s hk hl h hp hd).mono (by omega)
  · exact (restsIn_done s hk hl h hp hd).mono (by omega)

end Sys2Proof.Machine
end

