-- ==== Sys2Proof/Laws/HostSide.lean ====
section
/-! SUPPORT. What a move of the host can touch and what each of the seven steps does
(spec/45_host_protocol.md R200 to R213). -/

namespace Sys2Proof.Machine

/-- `t` is `s` but for the host, the mark of its flight, the outputs and the scripts of the host's own questions:
all that the host's program can touch at a tick. -/
def HostOnly (s t : State) : Prop :=
  t = { s with
    host := t.host, line := t.line, out := t.out
    env := { s.env with port := t.env.port, wrOk := t.env.wrOk, clock := t.env.clock } }

theorem HostOnly.refl (s : State) : HostOnly s s := rfl

theorem HostOnly.trans {s t u : State} (h : HostOnly s t) (k : HostOnly t u) : HostOnly s u := by
  unfold HostOnly at *
  rw [k, h]

theorem HostOnly.now {s t : State} (h : HostOnly s t) : t.now = s.now := by rw [h]
theorem HostOnly.cfg {s t : State} (h : HostOnly s t) : t.cfg = s.cfg := by rw [h]
theorem HostOnly.dec {s t : State} (h : HostOnly s t) : t.dec = s.dec := by rw [h]
theorem HostOnly.dev {s t : State} (h : HostOnly s t) : t.dev = s.dev := by rw [h]
theorem HostOnly.zact {s t : State} (h : HostOnly s t) : t.zact = s.zact := by rw [h]
theorem HostOnly.duart {s t : State} (h : HostOnly s t) : t.duart = s.duart := by rw [h]
theorem HostOnly.sensor {s t : State} (h : HostOnly s t) : t.env.sensor = s.env.sensor := by rw [h]
theorem HostOnly.chanH2D {s t : State} (h : HostOnly s t) : t.env.chanH2D = s.env.chanH2D := by rw [h]
theorem HostOnly.chanD2H {s t : State} (h : HostOnly s t) : t.env.chanD2H = s.env.chanD2H := by rw [h]
theorem HostOnly.moisture {s t : State} (h : HostOnly s t) : t.env.moisture = s.env.moisture := by rw [h]
theorem HostOnly.keys {s t : State} (h : HostOnly s t) : t.env.keys = s.env.keys := by rw [h]
theorem HostOnly.resets {s t : State} (h : HostOnly s t) : t.env.resets = s.env.resets := by rw [h]
theorem HostOnly.turns {s t : State} (h : HostOnly s t) : t.env.turns = s.env.turns := by rw [h]
theorem HostOnly.intr {s t : State} (h : HostOnly s t) : t.env.intr = s.env.intr := by rw [h]

/-! ### The seven steps -/

theorem stepOpen_other {s : State} (h : s.host.state ≠ .opening) : stepOpen s = s := by
  unfold stepOpen; split <;> simp_all

theorem stepWaitWr_other {s : State} (h : s.host.state ≠ .waitWr) : stepWaitWr s = s := by
  unfold stepWaitWr; split <;> simp_all

theorem stepWrite_other {s : State} (h : s.host.state ≠ .write) : stepWrite s = s := by
  unfold stepWrite; split <;> simp_all

theorem stepBlind_other {s : State} (h : s.host.state ≠ .blind) : stepBlind s = s := by
  unfold stepBlind; split <;> simp_all

theorem stepWaitRd_other {s : State} (h : s.host.state ≠ .waitRd) : stepWaitRd s = s := by
  unfold stepWaitRd; split <;> simp_all

theorem stepRead_other {s : State} (h : s.host.state ≠ .read) : stepRead s = s := by
  unfold stepRead; split <;> simp_all

theorem stepRelease_other {s : State} (h : s.host.state ≠ .release) : stepRelease s = s := by
  unfold stepRelease; split <;> simp_all

/-- `H_OPEN` either opens the line and goes to wait for write-readiness, or ends in `PortUnavailable`. -/
theorem stepOpen_cases {s : State} (h : s.host.state = .opening) :
    stepOpen s = { s with
        host := { s.host with lineOpen := true, hrxdQ := [], state := .waitWr, timer := 0 }
        env := { s.env with port := s.env.port.tail } }
    ∨ stepOpen s = { s with
        host := { s.host with result := .portUnavailable, state := .idle }
        env := { s.env with port := s.env.port.tail } } := by
  have e : stepOpen s = if (askPort s).1 = true
      then { openLine (askPort s).2 with host.state := .waitWr, host.timer := 0 }
      else { (askPort s).2 with host.result := .portUnavailable, host.state := .idle } := by
    simp only [stepOpen, h]
  rw [e, askPort_snd]
  split
  · exact .inl rfl
  · exact .inr rfl

/-- `H_WAIT_WR` polls once, goes on to the write, or ends in `DeviceNotResponding`. -/
theorem stepWaitWr_cases {s : State} (h : s.host.state = .waitWr) :
    (s.host.timer < s.cfg.hostDeadlineUs ∧ s.host.lineOpen = true ∧ s.host.htxReady = true ∧ stepWaitWr s
        = { s with host := { s.host with state := .write }, env := { s.env with wrOk := s.env.wrOk.tail } })
    ∨ (s.host.timer < s.cfg.hostDeadlineUs ∧ stepWaitWr s
        = { s with
            host := { s.host with timer := s.host.timer + 1 }, env := { s.env with wrOk := s.env.wrOk.tail } })
    ∨ (s.cfg.hostDeadlineUs ≤ s.host.timer ∧ stepWaitWr s = abortTransaction .deviceNotResponding s) := by
  by_cases ht : s.host.timer < s.cfg.hostDeadlineUs
  · have e : stepWaitWr s = if (s.host.lineOpen && s.host.htxReady && (askWrOk s).1) = true
        then { (askWrOk s).2 with host.state := .write }
        else { (askWrOk s).2 with host.timer := (askWrOk s).2.host.timer + 1 } := by
      simp only [stepWaitWr, h, ht, if_true, hostWrReady]
      rfl
    rw [e, askWrOk_snd]
    split
    · simp_all
    · exact .inr (.inl ⟨ht, rfl⟩)
  · refine .inr (.inr ⟨by omega, ?_⟩)
    simp only [stepWaitWr, h, if_neg ht]

theorem stepWrite_eq {s : State} (h : s.host.state = .write) :
    stepWrite s = { s with
      host := { s.host with
        htxd := s.host.req, htxReady := false, htxRemain := s.cfg.byteTimeUs, state := .blind, timer := 0 }
      line := { h2dLost := false } } := by
  unfold stepWrite; simp only [h]; rfl

theorem stepBlind_cases {s : State} (h : s.host.state = .blind) :
    (s.host.timer < s.cfg.blindWaitUs ∧ stepBlind s = { s with host := { s.host with timer := s.host.timer + 1 } })
    ∨ (s.cfg.blindWaitUs ≤ s.host.timer ∧ stepBlind s
        = { s with host := { s.host with state := .waitRd, timer := 0 } }) := by
  unfold stepBlind
  simp only [h]
  split
  · exact .inl ⟨‹_›, rfl⟩
  · exact .inr ⟨by omega, rfl⟩

theorem stepWaitRd_cases {s : State} (h : s.host.state = .waitRd) :
    (s.host.timer < s.cfg.hostDeadlineUs ∧ hostRdReady s = true ∧ stepWaitRd s
        = { s with host := { s.host with state := .read } })
    ∨ (s.host.timer < s.cfg.hostDeadlineUs ∧ hostRdReady s = false ∧ stepWaitRd s
        = { s with host := { s.host with timer := s.host.timer + 1 } })
    ∨ (s.cfg.hostDeadlineUs ≤ s.host.timer ∧ stepWaitRd s = abortTransaction .noIncomingData s) := by
  unfold stepWaitRd
  simp only [h]
  split
  · split
    · exact .inl ⟨‹_›, ‹_›, rfl⟩
    · exact .inr (.inl ⟨‹_›, by simp_all, rfl⟩)
  · exact .inr (.inr ⟨by omega, rfl⟩)

theorem stepRead_eq {s : State} (h : s.host.state = .read) :
    stepRead s = { hostRead s with host.state := .release } := by
  unfold stepRead; simp only [h]

/-- `H_RELEASE` releases the line, appends one line to the log, shows the payload if asked to, and is done. -/
theorem stepRelease_eq {s : State} (h : s.host.state = .release) :
    stepRelease s = { s with
      host := { s.host with lineOpen := false, hrxdQ := [], result := .done, state := .idle }
      out := { log := s.out.log ++ [logLine (askClock (releaseLine s)).1 (payload s)]
               display := if s.host.disp then s.out.display ++ [payload s] else s.out.display }
      env := { s.env with clock := s.env.clock.tail } } := by
  unfold stepRelease
  simp only [h, appendRecord, displayPayload, askClock_snd, releaseLine]
  split <;> simp_all

theorem hostOnly_of_cases (s : State) :
    HostOnly s (stepOpen s) ∧ HostOnly s (stepWaitWr s) ∧ HostOnly s (stepWrite s) ∧ HostOnly s (stepBlind s)
    ∧ HostOnly s (stepWaitRd s) ∧ HostOnly s (stepRead s) ∧ HostOnly s (stepRelease s) := by
  refine ⟨?_, ?_, ?_, ?_, ?_, ?_, ?_⟩
  · by_cases h : s.host.state = .opening
    · obtain e | e := stepOpen_cases h <;> rw [e] <;> rfl
    · rw [stepOpen_other h]; rfl
  · by_cases h : s.host.state = .waitWr
    · obtain ⟨-, -, -, e⟩ | ⟨-, e⟩ | ⟨-, e⟩ := stepWaitWr_cases h <;> rw [e] <;> rfl
    · rw [stepWaitWr_other h]; rfl
  · by_cases h : s.host.state = .write
    · rw [stepWrite_eq h]; rfl
    · rw [stepWrite_other h]; rfl
  · by_cases h : s.host.state = .blind
    · obtain ⟨-, e⟩ | ⟨-, e⟩ := stepBlind_cases h <;> rw [e] <;> rfl
    · rw [stepBlind_other h]; rfl
  · by_cases h : s.host.state = .waitRd
    · obtain ⟨-, -, e⟩ | ⟨-, -, e⟩ | ⟨-, e⟩ := stepWaitRd_cases h <;> rw [e] <;> rfl
    · rw [stepWaitRd_other h]; rfl
  · by_cases h : s.host.state = .read
    · rw [stepRead_eq h]; rfl
    · rw [stepRead_other h]; rfl
  · by_cases h : s.host.state = .release
    · rw [stepRelease_eq h]; rfl
    · rw [stepRelease_other h]; rfl

/-- A property kept by each of the seven steps is kept by the host's program at a tick. -/
theorem hostRun_induct {P : State → Prop}
    (h1 : ∀ u, P u → P (stepOpen u)) (h2 : ∀ u, P u → P (stepWaitWr u)) (h3 : ∀ u, P u → P (stepWrite u))
    (h4 : ∀ u, P u → P (stepBlind u)) (h5 : ∀ u, P u → P (stepWaitRd u)) (h6 : ∀ u, P u → P (stepRead u))
    (h7 : ∀ u, P u → P (stepRelease u)) {s : State} (h : P s) : P (hostRun s) :=
  h7 _ (h6 _ (h5 _ (h4 _ (h3 _ (h2 _ (h1 _ h))))))

theorem hostRun_hostOnly (s : State) : HostOnly s (hostRun s) :=
  hostRun_induct (P := HostOnly s) (fun u h => h.trans (hostOnly_of_cases u).1)
    (fun u h => h.trans (hostOnly_of_cases u).2.1) (fun u h => h.trans (hostOnly_of_cases u).2.2.1)
    (fun u h => h.trans (hostOnly_of_cases u).2.2.2.1) (fun u h => h.trans (hostOnly_of_cases u).2.2.2.2.1)
    (fun u h => h.trans (hostOnly_of_cases u).2.2.2.2.2.1) (fun u h => h.trans (hostOnly_of_cases u).2.2.2.2.2.2)
    (.refl s)

@[simp] theorem hostRun_now (s : State) : (hostRun s).now = s.now := (hostRun_hostOnly s).now
@[simp] theorem hostRun_cfg (s : State) : (hostRun s).cfg = s.cfg := (hostRun_hostOnly s).cfg
@[simp] theorem hostRun_dec (s : State) : (hostRun s).dec = s.dec := (hostRun_hostOnly s).dec
@[simp] theorem hostRun_dev (s : State) : (hostRun s).dev = s.dev := (hostRun_hostOnly s).dev
@[simp] theorem hostRun_zact (s : State) : (hostRun s).zact = s.zact := (hostRun_hostOnly s).zact
@[simp] theorem hostRun_duart (s : State) : (hostRun s).duart = s.duart := (hostRun_hostOnly s).duart

/-- An idle host does nothing at a tick (45 R200). -/
theorem hostRun_of_idle {s : State} (h : s.host.state = .idle) : hostRun s = s := by
  unfold hostRun
  simp [stepOpen_other, stepWaitWr_other, stepWrite_other, stepBlind_other, stepWaitRd_other, stepRead_other,
    stepRelease_other, h]

/-- The blind wait counts a tick and reads nothing else (45 R206). -/
theorem hostRun_of_blind {s : State} (h : s.host.state = .blind) (ht : s.host.timer < s.cfg.blindWaitUs) :
    hostRun s = { s with host := { s.host with timer := s.host.timer + 1 } } := by
  unfold hostRun
  rw [stepOpen_other (by simp [h]), stepWaitWr_other (by simp [h]), stepWrite_other (by simp [h])]
  obtain ⟨-, e⟩ | ⟨hb, -⟩ := stepBlind_cases h
  · rw [e, stepWaitRd_other (by simp [h]), stepRead_other (by simp [h]), stepRelease_other (by simp [h])]
  · omega

/-! ### The wait that is left (45 R217) -/

/-- After a tick of the host's program a transaction has ended, or is at most `n` ticks from its end. -/
def EndsWithin (n : Nat) (s : State) : Prop := hostEnded s ∨ (s.host.state ≠ .idle ∧ hostWaitLeft s ≤ n)

theorem EndsWithin.mono {n m : Nat} (h : n ≤ m) {s : State} (k : EndsWithin n s) : EndsWithin m s :=
  k.imp id fun e => ⟨e.1, Nat.le_trans e.2 h⟩

theorem stepRelease_endsWithin {s : State} (h : s.host.state = .release) : EndsWithin 0 (stepRelease s) := by
  rw [stepRelease_eq h]; exact .inl ⟨rfl, .inl rfl⟩

theorem stepRead_endsWithin {s : State} (h : s.host.state = .read) : EndsWithin 0 (stepRelease (stepRead s)) :=
  stepRelease_endsWithin (by rw [stepRead_eq h])

/-- An ended transaction stays ended through the rest of the steps. -/
theorem stepRead_of_idle {s : State} (h : s.host.state = .idle) : stepRelease (stepRead s) = s := by
  rw [stepRead_other (by simp [h]), stepRelease_other (by simp [h])]

theorem stepWaitRd_endsWithin {s : State} (h : s.host.state = .waitRd) :
    EndsWithin (s.cfg.hostDeadlineUs - s.host.timer) (stepRelease (stepRead (stepWaitRd s))) := by
  obtain ⟨-, -, e⟩ | ⟨ht, -, e⟩ | ⟨-, e⟩ := stepWaitRd_cases h <;> rw [e]
  · exact (stepRead_endsWithin rfl).mono (Nat.zero_le _)
  · rw [stepRead_other (by simp [h]), stepRelease_other (by simp [h])]
    refine .inr ⟨by simp [h], ?_⟩
    simp only [hostWaitLeft, h]; omega
  · rw [stepRead_of_idle rfl]; exact .inl ⟨rfl, .inr (.inr rfl)⟩

theorem stepBlind_endsWithin {s : State} (h : s.host.state = .blind) :
    EndsWithin ((s.cfg.blindWaitUs - s.host.timer) + s.cfg.hostDeadlineUs)
      (stepRelease (stepRead (stepWaitRd (stepBlind s)))) := by
  obtain ⟨ht, e⟩ | ⟨-, e⟩ := stepBlind_cases h <;> rw [e]
  · rw [stepWaitRd_other (by simp [h]), stepRead_other (by simp [h]), stepRelease_other (by simp [h])]
    refine .inr ⟨by simp [h], ?_⟩
    simp only [hostWaitLeft, h]; omega
  · exact (stepWaitRd_endsWithin rfl).mono (by simp)

theorem stepWaitWr_endsWithin {s : State} (h : s.host.state = .waitWr) :
    EndsWithin ((s.cfg.hostDeadlineUs - s.host.timer) + s.cfg.blindWaitUs + s.cfg.hostDeadlineUs)
      (stepRelease (stepRead (stepWaitRd (stepBlind (stepWrite (stepWaitWr s)))))) := by
  obtain ⟨-, -, -, e⟩ | ⟨ht, e⟩ | ⟨-, e⟩ := stepWaitWr_cases h <;> rw [e]
  · rw [stepWrite_eq rfl]
    exact (stepBlind_endsWithin rfl).mono (by simp)
  · rw [stepWrite_other (by simp [h]), stepBlind_other (by simp [h]), stepWaitRd_other (by simp [h]),
      stepRead_other (by simp [h]), stepRelease_other (by simp [h])]
    refine .inr ⟨by simp [h], ?_⟩
    simp only [hostWaitLeft, h]; omega
  · rw [stepWrite_other (by simp [abortTransaction]), stepBlind_other (by simp [abortTransaction]),
      stepWaitRd_other (by simp [abortTransaction]), stepRead_of_idle rfl]
    exact .inl ⟨rfl, .inr (.inl rfl)⟩

/-- One tick of the host's program in a timed phase ends the transaction or lowers the wait left
(45 R203, R206, R207). -/
theorem hostRun_endsWithin {s : State}
    (h : s.host.state = .waitWr ∨ s.host.state = .blind ∨ s.host.state = .waitRd) :
    EndsWithin (hostWaitLeft s - 1) (hostRun s) := by
  unfold hostRun
  rcases h with h | h | h
  · rw [stepOpen_other (by simp [h])]
    exact (stepWaitWr_endsWithin h).mono (by simp [hostWaitLeft, h])
  · rw [stepOpen_other (by simp [h]), stepWaitWr_other (by simp [h]), stepWrite_other (by simp [h])]
    exact (stepBlind_endsWithin h).mono (by simp [hostWaitLeft, h])
  · rw [stepOpen_other (by simp [h]), stepWaitWr_other (by simp [h]), stepWrite_other (by simp [h]),
      stepBlind_other (by simp [h])]
    exact (stepWaitRd_endsWithin h).mono (by simp [hostWaitLeft, h])

/-! ### What the host's program does not read -/

/-- `s`, with all that the host's program neither reads nor writes taken from `o`. -/
def withHostRest (o s : State) : State :=
  { o with
    now := s.now, cfg := s.cfg, host := s.host, line := s.line, out := s.out
    env := { o.env with port := s.env.port, wrOk := s.env.wrOk, clock := s.env.clock } }

@[simp] theorem withHostRest_host (o s : State) : (withHostRest o s).host = s.host := rfl
@[simp] theorem withHostRest_cfg (o s : State) : (withHostRest o s).cfg = s.cfg := rfl

theorem askPort_withHostRest (o s : State) :
    askPort (withHostRest o s) = ((askPort s).1, withHostRest o (askPort s).2) := by
  obtain ⟨_, _, _, _, _, _, _, _, _, ⟨_, _, _, _, port, _, _, _, _, _, _⟩⟩ := s
  cases port <;> rfl

theorem askWrOk_withHostRest (o s : State) :
    askWrOk (withHostRest o s) = ((askWrOk s).1, withHostRest o (askWrOk s).2) := by
  obtain ⟨_, _, _, _, _, _, _, _, _, ⟨_, _, _, _, _, wrOk, _, _, _, _, _⟩⟩ := s
  cases wrOk <;> rfl

theorem askClock_withHostRest (o s : State) :
    askClock (withHostRest o s) = ((askClock s).1, withHostRest o (askClock s).2) := by
  obtain ⟨_, _, _, _, _, _, _, _, _, ⟨_, _, _, _, _, _, clock, _, _, _, _⟩⟩ := s
  cases clock <;> rfl

theorem hostWrReady_withHostRest (o s : State) :
    hostWrReady (withHostRest o s) = ((hostWrReady s).1, withHostRest o (hostWrReady s).2) := by
  unfold hostWrReady
  rw [askWrOk_withHostRest]; rfl

theorem stepOpen_withHostRest (o s : State) : stepOpen (withHostRest o s) = withHostRest o (stepOpen s) := by
  cases h : s.host.state <;> simp only [stepOpen, withHostRest_host, h]
  rw [askPort_withHostRest, apply_ite (withHostRest o)]
  rfl

theorem stepWaitWr_withHostRest (o s : State) : stepWaitWr (withHostRest o s) = withHostRest o (stepWaitWr s) := by
  cases h : s.host.state <;> simp only [stepWaitWr, withHostRest_host, withHostRest_cfg, h]
  rw [apply_ite (withHostRest o)]
  congr 1
  rw [hostWrReady_withHostRest, apply_ite (withHostRest o)]
  rfl

theorem stepWrite_withHostRest (o s : State) : stepWrite (withHostRest o s) = withHostRest o (stepWrite s) := by
  cases h : s.host.state <;> simp only [stepWrite, withHostRest_host, h]
  rfl

theorem stepBlind_withHostRest (o s : State) : stepBlind (withHostRest o s) = withHostRest o (stepBlind s) := by
  cases h : s.host.state <;> simp only [stepBlind, withHostRest_host, h]
  rw [apply_ite (withHostRest o)]
  rfl

theorem stepWaitRd_withHostRest (o s : State) : stepWaitRd (withHostRest o s) = withHostRest o (stepWaitRd s) := by
  cases h : s.host.state <;> simp only [stepWaitRd, withHostRest_host, h]
  rw [apply_ite (withHostRest o), apply_ite (withHostRest o)]
  rfl

theorem stepRead_withHostRest (o s : State) : stepRead (withHostRest o s) = withHostRest o (stepRead s) := by
  cases h : s.host.state <;> simp only [stepRead, withHostRest_host, h]
  rfl

theorem stepRelease_withHostRest (o s : State) :
    stepRelease (withHostRest o s) = withHostRest o (stepRelease s) := by
  by_cases h : s.host.state = .release
  · rw [stepRelease_eq h, stepRelease_eq (s := withHostRest o s) h]
    have e : (askClock (releaseLine (withHostRest o s))).1 = (askClock (releaseLine s)).1 :=
      show (askClock (withHostRest o (releaseLine s))).1 = _ by rw [askClock_withHostRest]
    rw [e]; rfl
  · rw [stepRelease_other h, stepRelease_other (s := withHostRest o s) h]

/-- The host's program neither reads nor writes the rest of the machine. -/
theorem hostRun_withHostRest (o s : State) : hostRun (withHostRest o s) = withHostRest o (hostRun s) := by
  unfold hostRun
  rw [stepOpen_withHostRest, stepWaitWr_withHostRest, stepWrite_withHostRest, stepBlind_withHostRest,
    stepWaitRd_withHostRest, stepRead_withHostRest, stepRelease_withHostRest]

/-! ### Commands (45 R201, R202) -/

theorem openStatus_cases (s : State) :
    (s.host.state = .idle ∧ openStatus s = openTransaction s.cfg.statusReqByte s.cfg.dispStatus s)
    ∨ (s.host.state ≠ .idle ∧ openStatus s = s) := by
  unfold openStatus
  split
  · exact .inl ⟨‹_›, rfl⟩
  · exact .inr ⟨‹_›, rfl⟩

theorem openZone_cases (n : Nat) (s : State) :
    (s.host.state = .idle ∧ 1 ≤ n ∧ n ≤ s.cfg.nZones
      ∧ openZone n s = openTransaction (BitVec.ofNat 8 (0x30 + n)) s.cfg.dispZone s)
    ∨ (s.host.state = .idle ∧ ¬ (1 ≤ n ∧ n ≤ s.cfg.nZones)
      ∧ openZone n s = { s with host := { s.host with result := .invalidZoneInput } })
    ∨ (s.host.state ≠ .idle ∧ openZone n s = s) := by
  unfold openZone
  split
  · split
    · rename_i h
      exact .inl ⟨‹_›, h.1, h.2, rfl⟩
    · exact .inr (.inl ⟨‹_›, ‹_›, rfl⟩)
  · exact .inr (.inr ⟨‹_›, rfl⟩)

theorem openTransaction_hostOnly (req : Byte) (disp : Bool) (s : State) :
    HostOnly s (openTransaction req disp s) :=
  (show HostOnly s { s with host.req := req, host.disp := disp, host.state := .opening } from rfl).trans
    (hostOnly_of_cases _).1

/-- A transaction that is begun has its line open and waits for write-readiness, or has ended for want of a port. -/
theorem openTransaction_cases (req : Byte) (disp : Bool) (s : State) :
    openTransaction req disp s = { s with
        host := { s.host with req := req, disp := disp, lineOpen := true, hrxdQ := [], state := .waitWr, timer := 0 }
        env := { s.env with port := s.env.port.tail } }
    ∨ openTransaction req disp s = { s with
        host := { s.host with req := req, disp := disp, result := .portUnavailable, state := .idle }
        env := { s.env with port := s.env.port.tail } } :=
  stepOpen_cases (s := { s with host.req := req, host.disp := disp, host.state := .opening }) rfl

/-- A command does nothing, refuses its operand, or begins a transaction. -/
theorem openCommand_cases (i : Instr) (s : State) :
    openCommand i s = s
    ∨ openCommand i s = { s with host := { s.host with result := .invalidZoneInput } }
    ∨ (s.host.state = .idle ∧ ∃ req disp, openCommand i s = openTransaction req disp s) := by
  cases i with
  | keyHostStatus =>
    obtain ⟨hi, h⟩ | ⟨-, h⟩ := openStatus_cases s
    · exact .inr (.inr ⟨hi, _, _, h⟩)
    · exact .inl h
  | keyHostZone n =>
    obtain ⟨hi, -, -, h⟩ | ⟨-, -, h⟩ | ⟨-, h⟩ := openZone_cases n s
    · exact .inr (.inr ⟨hi, _, _, h⟩)
    · exact .inr (.inl h)
    · exact .inl h
  | _ => exact .inl rfl

theorem openCommand_hostOnly (i : Instr) (s : State) : HostOnly s (openCommand i s) := by
  obtain h | h | ⟨-, _, _, h⟩ := openCommand_cases i s <;> rw [h]
  · rfl
  · rfl
  · exact openTransaction_hostOnly _ _ s

theorem firstPoll_cases (s s' : State) :
    (s.host.state = .idle ∧ firstPoll s s' = hostRun s') ∨ (s.host.state ≠ .idle ∧ firstPoll s s' = s') := by
  unfold firstPoll
  split
  · exact .inl ⟨‹_›, rfl⟩
  · exact .inr ⟨‹_›, rfl⟩

theorem firstPoll_hostOnly (s s' : State) : HostOnly s' (firstPoll s s') := by
  obtain ⟨-, h⟩ | ⟨-, h⟩ := firstPoll_cases s s' <;> rw [h]
  · exact hostRun_hostOnly s'
  · rfl

theorem dueKey_some {s : State} {k : KeyPress} (h : dueKey s = some k) :
    s.host.state = .idle ∧ k.tick ≤ s.now ∧ ∃ later, s.env.keys = k :: later := by
  unfold dueKey at h
  split at h
  · cases h
  · split at h
    · cases h
      rename_i hk
      exact ⟨hk.1, hk.2, _, ‹_›⟩
    · cases h

/-- A key that is due is taken from the script and, if it is a command, begun; else nothing happens. -/
theorem openKey_cases (s : State) :
    (dueKey s = none ∧ openKey s = s)
    ∨ ∃ k, dueKey s = some k
      ∧ (openKey s = dropKey s ∨ ∃ i, decodeKey k.key k.entry = .ok i ∧ openKey s = openCommand i (dropKey s)) := by
  unfold openKey
  split
  · exact .inl ⟨‹_›, rfl⟩
  · refine .inr ⟨_, ‹_›, ?_⟩
    split
    · exact .inr ⟨_, ‹_›, rfl⟩
    · exact .inl rfl

/-- Taking a key touches the host's side and the script of keys. -/
theorem openKey_hostOnly (s : State) : HostOnly s (openKey s) ∨ HostOnly (dropKey s) (openKey s) := by
  obtain ⟨-, h⟩ | ⟨k, -, h | ⟨i, -, h⟩⟩ := openKey_cases s <;> rw [h]
  · exact .inl rfl
  · exact .inr rfl
  · exact .inr (openCommand_hostOnly i _)

theorem takeKey_hostOnly (s : State) : HostOnly s (takeKey s) ∨ HostOnly (dropKey s) (takeKey s) := by
  obtain h | h := openKey_hostOnly s
  · exact .inl (h.trans (firstPoll_hostOnly s _))
  · exact .inr (h.trans (firstPoll_hostOnly s _))

@[simp] theorem openKey_now (s : State) : (openKey s).now = s.now := by
  obtain h | h := openKey_hostOnly s <;> rw [h.now]; rfl
@[simp] theorem openKey_cfg (s : State) : (openKey s).cfg = s.cfg := by
  obtain h | h := openKey_hostOnly s <;> rw [h.cfg]; rfl
@[simp] theorem openKey_dec (s : State) : (openKey s).dec = s.dec := by
  obtain h | h := openKey_hostOnly s <;> rw [h.dec]; rfl
@[simp] theorem openKey_dev (s : State) : (openKey s).dev = s.dev := by
  obtain h | h := openKey_hostOnly s <;> rw [h.dev]; rfl
@[simp] theorem openKey_zact (s : State) : (openKey s).zact = s.zact := by
  obtain h | h := openKey_hostOnly s <;> rw [h.zact]; rfl
@[simp] theorem openKey_duart (s : State) : (openKey s).duart = s.duart := by
  obtain h | h := openKey_hostOnly s <;> rw [h.duart]; rfl
@[simp] theorem openKey_resets (s : State) : (openKey s).env.resets = s.env.resets := by
  obtain h | h := openKey_hostOnly s <;> rw [h.resets]; rfl
@[simp] theorem openKey_sensor (s : State) : (openKey s).env.sensor = s.env.sensor := by
  obtain h | h := openKey_hostOnly s <;> rw [h.sensor]; rfl
@[simp] theorem openKey_moisture (s : State) : (openKey s).env.moisture = s.env.moisture := by
  obtain h | h := openKey_hostOnly s <;> rw [h.moisture]; rfl
@[simp] theorem openKey_turns (s : State) : (openKey s).env.turns = s.env.turns := by
  obtain h | h := openKey_hostOnly s <;> rw [h.turns]; rfl
@[simp] theorem takeKey_now (s : State) : (takeKey s).now = s.now := by
  obtain h | h := takeKey_hostOnly s <;> rw [h.now]; rfl
@[simp] theorem takeKey_cfg (s : State) : (takeKey s).cfg = s.cfg := by
  obtain h | h := takeKey_hostOnly s <;> rw [h.cfg]; rfl
@[simp] theorem takeKey_dec (s : State) : (takeKey s).dec = s.dec := by
  obtain h | h := takeKey_hostOnly s <;> rw [h.dec]; rfl
@[simp] theorem takeKey_dev (s : State) : (takeKey s).dev = s.dev := by
  obtain h | h := takeKey_hostOnly s <;> rw [h.dev]; rfl
@[simp] theorem takeKey_zact (s : State) : (takeKey s).zact = s.zact := by
  obtain h | h := takeKey_hostOnly s <;> rw [h.zact]; rfl
@[simp] theorem takeKey_duart (s : State) : (takeKey s).duart = s.duart := by
  obtain h | h := takeKey_hostOnly s <;> rw [h.duart]; rfl
@[simp] theorem takeKey_resets (s : State) : (takeKey s).env.resets = s.env.resets := by
  obtain h | h := takeKey_hostOnly s <;> rw [h.resets]; rfl
@[simp] theorem takeKey_sensor (s : State) : (takeKey s).env.sensor = s.env.sensor := by
  obtain h | h := takeKey_hostOnly s <;> rw [h.sensor]; rfl
@[simp] theorem takeKey_moisture (s : State) : (takeKey s).env.moisture = s.env.moisture := by
  obtain h | h := takeKey_hostOnly s <;> rw [h.moisture]; rfl
@[simp] theorem takeKey_turns (s : State) : (takeKey s).env.turns = s.env.turns := by
  obtain h | h := takeKey_hostOnly s <;> rw [h.turns]; rfl

end Sys2Proof.Machine
end

