-- ==== Sys2Proof/Laws/PerInstr.lean ====
section
/-! SUPPORT. Statements about every instruction as a term, one lemma for each constructor of `Instr`. -/

/-- Every well-formed instruction has exactly one row of the opcode table with its interface that its byte
matches, and that row bears its mnemonic (spec/30_encoding.md R93, R95). -/
def Sys2Proof.Laws.TableRowOf.Statement (i : Sys2Proof.Instr) : Prop :=
  i.wellFormed = true →
    ((Sys2Proof.opcodeTable.filter (fun r => decide (r.iface = (Sys2Proof.encode i).iface)
      && Sys2Proof.rowMatches r (Sys2Proof.encode i).byte)).map Sys2Proof.TableRow.mnemonic) = [Sys2Proof.mnemonic i]

namespace Sys2Proof.Laws

theorem TableRowOf.zoneSelect1 : TableRowOf.Statement .zoneSelect1 := fun _ => by decide
theorem TableRowOf.zoneSelect2 : TableRowOf.Statement .zoneSelect2 := fun _ => by decide
theorem TableRowOf.zoneSelect3 : TableRowOf.Statement .zoneSelect3 := fun _ => by decide
theorem TableRowOf.zoneSelect4 : TableRowOf.Statement .zoneSelect4 := fun _ => by decide
theorem TableRowOf.zoneSelect5 : TableRowOf.Statement .zoneSelect5 := fun _ => by decide
theorem TableRowOf.zoneSelect6 : TableRowOf.Statement .zoneSelect6 := fun _ => by decide
theorem TableRowOf.zoneSelect7 : TableRowOf.Statement .zoneSelect7 := fun _ => by decide
theorem TableRowOf.zoneSelect8 : TableRowOf.Statement .zoneSelect8 := fun _ => by decide

set_option maxRecDepth 20000 in
/-- The rows a request byte matches, computed for all 256 bytes. -/
theorem statusRows : ∀ b : Fin 256, isZoneDigit (BitVec.ofFin b) = false →
    ((opcodeTable.filter (fun r => decide (r.iface = Iface.request)
      && rowMatches r (BitVec.ofFin b))).map TableRow.mnemonic) = ["STATUS_ONLY"] := by decide

theorem TableRowOf.statusOnly (b : Byte) : TableRowOf.Statement (.statusOnly b) := fun h =>
  statusRows b.toFin (by simpa [Instr.wellFormed] using h)

theorem TableRowOf.keyHostStatus : TableRowOf.Statement .keyHostStatus := fun _ => by decide
theorem TableRowOf.keyWeather : TableRowOf.Statement .keyWeather := fun _ => by decide
theorem TableRowOf.keyHostZone (n : Nat) : TableRowOf.Statement (.keyHostZone n) := fun _ =>
  show (opcodeTable.filter (fun r => decide (r.iface = Iface.key) && rowMatches r 0x33)).map TableRow.mnemonic
    = ["KEY_3_HOST_ZONE"] by decide
theorem TableRowOf.keyReserved : TableRowOf.Statement .keyReserved := fun _ => by decide
theorem TableRowOf.keyExit : TableRowOf.Statement .keyExit := fun _ => by decide

end Sys2Proof.Laws
end

