-- ==== Sys2Proof/Laws/World.lean ====
section
/-! SUPPORT. Ticks, the run of a cycle, and what a step can do. -/

namespace Sys2Proof.Machine

/-! ### The order of the agents in a tick (00 R7) -/

/-- `s`, with what the host transmitter can touch taken from `o`. -/
def withH2D (o s : State) : State :=
  { s with
    host := { s.host with htxReady := o.host.htxReady, htxRemain := o.host.htxRemain }
    line := o.line
    duart := { s.duart with rxd := o.duart.rxd, rxFull := o.duart.rxFull }
    env := { s.env with chanH2D := o.env.chanH2D } }

/-- `s`, with what the device transmitter can touch taken from `o`. -/
def withD2H (o s : State) : State :=
  { s with
    duart := { s.duart with txReady := o.duart.txReady, txRemain := o.duart.txRemain }
    host := { s.host with hrxdQ := o.host.hrxdQ }
    env := { s.env with chanD2H := o.env.chanD2H } }

theorem deliverD2H_withH2D (b : Byte) (o s : State) : deliverD2H b (withH2D o s) = withH2D o (deliverD2H b s) := by
  have e : chanFate .d2h b (withH2D o s).env.chanD2H (withH2D o s).now = chanFate .d2h b s.env.chanD2H s.now := rfl
  unfold deliverD2H
  rw [e]
  cases chanFate .d2h b s.env.chanD2H s.now with
  | none => rfl
  | some c =>
    simp only [hostReceive]
    rw [apply_ite (withH2D o)]
    rfl

theorem deliverH2D_withD2H (b : Byte) (o s : State) : deliverH2D b (withD2H o s) = withD2H o (deliverH2D b s) := by
  have e : chanFate .h2d b (withD2H o s).env.chanH2D (withD2H o s).now = chanFate .h2d b s.env.chanH2D s.now := rfl
  unfold deliverH2D
  rw [e]
  cases chanFate .h2d b s.env.chanH2D s.now with
  | none => rfl
  | some c =>
    simp only [deviceReceive]
    rw [apply_ite (withD2H o)]
    rfl

theorem deviceTransmit_withH2D (o s : State) : deviceTransmit (withH2D o s) = withH2D o (deviceTransmit s) := by
  unfold deviceTransmit
  rw [apply_ite (withH2D o), apply_ite (withH2D o), ← deliverD2H_withH2D]
  rfl

theorem hostTransmit_withD2H (o s : State) : hostTransmit (withD2H o s) = withD2H o (hostTransmit s) := by
  unfold hostTransmit
  rw [apply_ite (withD2H o), apply_ite (withD2H o), apply_ite (withD2H o), ← deliverH2D_withD2H]
  rfl

/-- The two transmitters touch nothing that the other reads: their order within a tick shows nowhere. -/
theorem transmitters_commute (s : State) : deviceTransmit (hostTransmit s) = hostTransmit (deviceTransmit s) := by
  have h : hostTransmit s = withH2D (hostTransmit s) s := hostTransmit_eq s
  have d : deviceTransmit s = withD2H (deviceTransmit s) s := deviceTransmit_eq s
  have l := deviceTransmit_withH2D (hostTransmit s) s
  have r := hostTransmit_withD2H (deviceTransmit s) s
  rw [← h] at l
  rw [← d] at r
  rw [l, r]
  generalize hostTransmit s = t at *
  generalize deviceTransmit s = u at *
  rw [h, d]; rfl

/-- The two programs touch nothing that the other reads. -/
theorem programs_commute (s : State) : deviceRun (hostRun s) = hostRun (deviceRun s) := by
  have h : hostRun s = withRest (hostRun s) s := by
    have e := hostRun_hostOnly s
    generalize hostRun s = t at *
    rw [HostOnly] at e
    rw [e]; rfl
  have d : deviceRun s = withHostRest (deviceRun s) s := by
    have e := deviceRun_deviceOnly s
    generalize deviceRun s = t at *
    rw [DeviceOnly] at e
    rw [e]; rfl
  have l := deviceRun_withRest (hostRun s) s
  have r := hostRun_withHostRest (deviceRun s) s
  rw [← h] at l
  rw [← d] at r
  have eh := hostRun_hostOnly s
  have ed := deviceRun_deviceOnly s
  rw [l, r]
  generalize hostRun s = t at *
  generalize deviceRun s = u at *
  rw [HostOnly] at eh
  rw [DeviceOnly] at ed
  rw [eh, ed]; rfl

/-- The turn of a tick is one that no rule forbids. -/
theorem nextTurn_legal (s : State) : (nextTurn s).filter Move.isAgent ∈ agentOrders := by
  unfold nextTurn
  split
  · decide
  · split
    · rename_i h
      simpa [turnLegal] using h
    · decide

/-- A tick in which no reset and no key falls does the same whatever the order of the agents. -/
theorem tick_eq (s : State) : tick s = hostRun (deviceRun (hostTransmit (deviceTransmit (elapse s)))) := by
  have h := nextTurn_legal s
  unfold tick
  simp only [agentOrders, List.mem_cons, List.not_mem_nil, or_false] at h
  obtain h | h | h | h := h <;> rw [h] <;> simp only [runTurn]
  · rw [transmitters_commute]
  · rw [programs_commute]
  · rw [transmitters_commute, programs_commute]

/-! ### One tick -/

/-- The state in which the device program is about to run at a tick: time and the transmitters have moved. -/
def beforeDevice (s : State) : State := hostTransmit (deviceTransmit (elapse s))

theorem tick_eq_beforeDevice (s : State) : tick s = hostRun (deviceRun (beforeDevice s)) := tick_eq s

@[simp] theorem beforeDevice_now (s : State) : (beforeDevice s).now = s.now + 1 := by simp [beforeDevice]
@[simp] theorem beforeDevice_cfg (s : State) : (beforeDevice s).cfg = s.cfg := by simp [beforeDevice]
@[simp] theorem beforeDevice_dec (s : State) : (beforeDevice s).dec = s.dec := by simp [beforeDevice]
@[simp] theorem beforeDevice_dev (s : State) : (beforeDevice s).dev = { s.dev with yielded := false } := by
  simp [beforeDevice]
@[simp] theorem beforeDevice_zact (s : State) : (beforeDevice s).zact = s.zact := by simp [beforeDevice]
@[simp] theorem beforeDevice_out (s : State) : (beforeDevice s).out = s.out := by simp [beforeDevice]
@[simp] theorem beforeDevice_sensor (s : State) : (beforeDevice s).env.sensor = sensorElapse s.env.sensor := by
  rw [beforeDevice, hostTransmit_eq, deviceTransmit_eq]; rfl
@[simp] theorem beforeDevice_moisture (s : State) : (beforeDevice s).env.moisture = s.env.moisture := by
  rw [beforeDevice, hostTransmit_eq, deviceTransmit_eq]; rfl
@[simp] theorem beforeDevice_keys (s : State) : (beforeDevice s).env.keys = s.env.keys := by
  rw [beforeDevice, hostTransmit_eq, deviceTransmit_eq]; rfl
@[simp] theorem beforeDevice_resets (s : State) : (beforeDevice s).env.resets = s.env.resets := by
  rw [beforeDevice, hostTransmit_eq, deviceTransmit_eq]; rfl
@[simp] theorem beforeDevice_turns (s : State) : (beforeDevice s).env.turns = s.env.turns.tail := by
  rw [beforeDevice, hostTransmit_eq, deviceTransmit_eq]; rfl
@[simp] theorem beforeDevice_txd (s : State) : (beforeDevice s).duart.txd = s.duart.txd := by
  rw [beforeDevice, hostTransmit_eq, deviceTransmit_eq]; rfl

@[simp] theorem tick_now (s : State) : (tick s).now = s.now + 1 := by simp [tick_eq_beforeDevice]
@[simp] theorem tick_cfg (s : State) : (tick s).cfg = s.cfg := by simp [tick_eq_beforeDevice]
theorem tick_dec (s : State) : (tick s).dec = (deviceRun (beforeDevice s)).dec := by simp [tick_eq_beforeDevice]
theorem tick_dev (s : State) : (tick s).dev = (deviceRun (beforeDevice s)).dev := by simp [tick_eq_beforeDevice]
theorem tick_zact (s : State) : (tick s).zact = (deviceRun (beforeDevice s)).zact := by simp [tick_eq_beforeDevice]
theorem tick_duart (s : State) : (tick s).duart = (deviceRun (beforeDevice s)).duart := by simp [tick_eq_beforeDevice]

/-- After a tick of a legal machine the device is at rest: it has reached the next tick or waits for a request. -/
theorem tick_settles (s : State) (hc : configLegal s.cfg = true) : settled (tick s) = true := by
  have h := deviceRun_settles (beforeDevice s) (by simpa using hc)
  simpa [settled, tick_dev] using h

/-- A property kept by time, by the two transmitters, by every move of the device and by the host's program is
kept by a tick. -/
theorem tick_induct {P : State → Prop} (he : ∀ u, P u → P (elapse u)) (hd : ∀ u, P u → P (deviceTransmit u))
    (hh : ∀ u, P u → P (hostTransmit u)) (hm : ∀ u, P u → P (deviceMove u)) (hr : ∀ u, P u → P (hostRun u))
    {s : State} (h : P s) : P (tick s) := by
  rw [tick_eq]
  exact hr _ (deviceRun_induct hm (hh _ (hd _ (he _ h))))

theorem ticks_succ (n : Nat) (s : State) : ticks (n + 1) s = tick (ticks n s) := by
  induction n generalizing s with
  | zero => rfl
  | succ n ih => exact ih (tick s)

/-! ### One tick with its resets and keys -/

/-- A property kept by every move of a turn is kept by the turn. -/
theorem runTurn_induct {P : State → Prop} (hd : ∀ u, P u → P (deviceTransmit u))
    (hh : ∀ u, P u → P (hostTransmit u)) (hm : ∀ u, P u → P (deviceMove u)) (hr : ∀ u, P u → P (hostRun u))
    (hs : ∀ u, P u → P (takeReset u)) (hk : ∀ u, P u → P (openKey u)) (t : List Move) {s : State} (h : P s) :
    P (runTurn t s) := by
  induction t generalizing s with
  | nil => exact h
  | cons m rest ih =>
    cases m with
    | duart => exact ih (hd s h)
    | hostUart => exact ih (hh s h)
    | dev => exact ih (deviceRun_induct hm h)
    | host => exact ih (hr s h)
    | reset => exact ih (hs s h)
    | key =>
      refine ih ?_
      split
      · exact hk s h
      · unfold takeKey
        obtain ⟨-, e⟩ | ⟨-, e⟩ := firstPoll_cases s (openKey s) <;> rw [e]
        · exact hr _ (hk s h)
        · exact hk s h

/-- A property kept by time, by every move of an agent, by a reset and by a key is kept by the next tick. -/
theorem advance_induct {P : State → Prop} (he : ∀ u, P u → P (elapse u)) (hd : ∀ u, P u → P (deviceTransmit u))
    (hh : ∀ u, P u → P (hostTransmit u)) (hm : ∀ u, P u → P (deviceMove u)) (hr : ∀ u, P u → P (hostRun u))
    (hs : ∀ u, P u → P (takeReset u)) (hk : ∀ u, P u → P (openKey u)) {s : State} (h : P s) : P (advance s) :=
  runTurn_induct hd hh hm hr hs hk _ (he s h)

@[simp] theorem runTurn_now (t : List Move) (s : State) : (runTurn t s).now = s.now :=
  runTurn_induct (P := fun u => u.now = s.now) (by simp) (by simp)
    (fun u h => (deviceMove_deviceOnly u).now.trans h) (by simp) (by simp) (by simp) t rfl

@[simp] theorem advance_now (s : State) : (advance s).now = s.now + 1 := runTurn_now _ _

@[simp] theorem runTurn_cfg (t : List Move) (s : State) : (runTurn t s).cfg = s.cfg :=
  runTurn_induct (P := fun u => u.cfg = s.cfg) (by simp) (by simp)
    (fun u h => (deviceMove_deviceOnly u).cfg.trans h) (by simp) (by simp) (by simp) t rfl

@[simp] theorem advance_cfg (s : State) : (advance s).cfg = s.cfg := runTurn_cfg _ _

theorem noReset_advance {s : State} (h : noReset s = true) : noReset (advance s) = true := by
  refine advance_induct (P := fun u => noReset u = true) ?_ ?_ ?_ ?_ ?_ ?_ ?_ h <;> intro u hu
  · exact hu
  · simpa only [noReset, deviceTransmit_resets] using hu
  · simpa only [noReset, hostTransmit_resets] using hu
  · simpa [noReset, (deviceMove_deviceOnly u).resets] using hu
  · simpa [noReset, (hostRun_hostOnly u).resets] using hu
  · rwa [takeReset_of_noReset hu]
  · simpa [noReset] using hu

/-! ### The device's side of a tick

What the device program reads and writes, with its transmitter, goes its own way: host, keys and channel do not touch
it, so with no reset it is the same in `advance` as in `tick`. -/

/-- `u` and `v` agree in what the device program and its transmitter read and write. -/
def SameDevice (u v : State) : Prop := u = withRest u v

theorem SameDevice.refl (s : State) : SameDevice s s := rfl

theorem SameDevice.symm {u v : State} (h : SameDevice u v) : SameDevice v u := by
  rw [SameDevice] at *; rw [h]; rfl

theorem SameDevice.trans {u v w : State} (h : SameDevice u v) (k : SameDevice v w) : SameDevice u w := by
  rw [SameDevice] at *; rw [h, k]; rfl

theorem SameDevice.now {u v : State} (h : SameDevice u v) : u.now = v.now := by rw [h]; rfl
theorem SameDevice.cfg {u v : State} (h : SameDevice u v) : u.cfg = v.cfg := by rw [h]; rfl
theorem SameDevice.dec {u v : State} (h : SameDevice u v) : u.dec = v.dec := by rw [h]; rfl
theorem SameDevice.dev {u v : State} (h : SameDevice u v) : u.dev = v.dev := by rw [h]; rfl
theorem SameDevice.zact {u v : State} (h : SameDevice u v) : u.zact = v.zact := by rw [h]; rfl
theorem SameDevice.ubrr {u v : State} (h : SameDevice u v) : u.duart.ubrr = v.duart.ubrr := by rw [h]; rfl
theorem SameDevice.txd {u v : State} (h : SameDevice u v) : u.duart.txd = v.duart.txd := by rw [h]; rfl
theorem SameDevice.txReady {u v : State} (h : SameDevice u v) : u.duart.txReady = v.duart.txReady := by rw [h]; rfl
theorem SameDevice.txRemain {u v : State} (h : SameDevice u v) : u.duart.txRemain = v.duart.txRemain := by
  rw [h]; rfl
theorem SameDevice.sensor {u v : State} (h : SameDevice u v) : u.env.sensor = v.env.sensor := by rw [h]; rfl
theorem SameDevice.moisture {u v : State} (h : SameDevice u v) : u.env.moisture = v.env.moisture := by rw [h]; rfl

theorem SameDevice.deviceRun {u v : State} (h : SameDevice u v) : SameDevice (deviceRun u) (deviceRun v) := by
  have e := deviceRun_withRest u v
  rw [← h] at e
  rw [SameDevice, e]; rfl

/-- The transmitter's own flags follow from its own flags. -/
theorem deviceTransmit_withRest (o s : State) :
    SameDevice (deviceTransmit (withRest o s)) (deviceTransmit s) := by
  have d : ∀ (b : Byte) (x y : State), SameDevice x y → SameDevice (deliverD2H b x) (deliverD2H b y) := by
    intro b x y h
    rw [deliverD2H_eq b x, deliverD2H_eq b y, SameDevice]
    rw [SameDevice] at h
    rw [h]; rfl
  unfold deviceTransmit
  by_cases hr : s.duart.txReady = true
  · rw [if_pos hr, if_pos (show (withRest o s).duart.txReady = true from hr)]; rfl
  rw [if_neg hr, if_neg (show ¬ (withRest o s).duart.txReady = true from hr)]
  by_cases hn : s.duart.txRemain ≤ 1
  · rw [if_pos hn, if_pos (show (withRest o s).duart.txRemain ≤ 1 from hn)]
    exact d _ _ _ rfl
  · rw [if_neg hn, if_neg (show ¬ (withRest o s).duart.txRemain ≤ 1 from hn)]; rfl

theorem SameDevice.deviceTransmit {u v : State} (h : SameDevice u v) :
    SameDevice (deviceTransmit u) (deviceTransmit v) := by
  have e := deviceTransmit_withRest u v
  rwa [← h] at e

theorem sameDevice_hostTransmit (s : State) : SameDevice (hostTransmit s) s := by
  rw [hostTransmit_eq, SameDevice]; rfl

theorem HostOnly.sameDevice {s t : State} (h : HostOnly s t) : SameDevice t s := by
  rw [SameDevice, h]; rfl

theorem sameDevice_hostRun (s : State) : SameDevice (hostRun s) s := (hostRun_hostOnly s).sameDevice

theorem sameDevice_openKey (s : State) : SameDevice (openKey s) s := by
  obtain h | h := openKey_hostOnly s
  · exact h.sameDevice
  · exact h.sameDevice.trans rfl

theorem sameDevice_takeKey (s : State) : SameDevice (takeKey s) s := by
  obtain h | h := takeKey_hostOnly s
  · exact h.sameDevice
  · exact h.sameDevice.trans rfl

/-- A move of the device node. -/
def Move.isDevice (m : Move) : Bool :=
  match m with
  | .duart | .dev => true
  | .hostUart | .host | .reset | .key => false

/-- With no reset to come, the device's side of a turn is that of the device's own moves. -/
theorem sameDevice_runTurn (t : List Move) {u v : State} (hn : noReset u = true) (h : SameDevice u v) :
    SameDevice (runTurn t u) (runTurn (t.filter Move.isDevice) v) := by
  induction t generalizing u v with
  | nil => exact h
  | cons m rest ih =>
    cases m with
    | duart => exact ih (by simpa only [noReset, deviceTransmit_resets] using hn) h.deviceTransmit
    | hostUart =>
      exact ih (by simpa only [noReset, hostTransmit_resets] using hn) ((sameDevice_hostTransmit u).trans h)
    | dev => exact ih (by simpa [noReset, (deviceRun_deviceOnly u).resets] using hn) h.deviceRun
    | host => exact ih (by simpa [noReset, (hostRun_hostOnly u).resets] using hn) ((sameDevice_hostRun u).trans h)
    | reset => exact ih (by rwa [takeReset_of_noReset hn]) (by rwa [takeReset_of_noReset hn])
    | key =>
      show SameDevice (runTurn rest (if rest.contains .host then openKey u else takeKey u)) _
      split
      · exact ih (by simpa [noReset] using hn) ((sameDevice_openKey u).trans h)
      · exact ih (by simpa [noReset] using hn) ((sameDevice_takeKey u).trans h)

/-- In a legal turn the device's transmitter moves and then its program. -/
theorem filter_isDevice_nextTurn (s : State) : (nextTurn s).filter Move.isDevice = [.duart, .dev] := by
  have h := nextTurn_legal s
  have e : (nextTurn s).filter Move.isDevice = ((nextTurn s).filter Move.isAgent).filter Move.isDevice := by
    rw [List.filter_filter]
    congr 1
    funext m
    cases m <;> rfl
  rw [e]
  simp only [agentOrders, List.mem_cons, List.not_mem_nil, or_false] at h
  obtain h | h | h | h := h <;> rw [h] <;> rfl

/-- With no reset to come, the next tick does to the device's side what its transmitter and its program do. -/
theorem sameDevice_advance {s : State} (hn : noReset s = true) :
    SameDevice (advance s) (deviceRun (deviceTransmit (elapse s))) := by
  have h := sameDevice_runTurn (nextTurn s) (u := elapse s) hn (.refl _)
  rwa [filter_isDevice_nextTurn] at h

/-! ### The cycle -/

@[simp] theorem pollInputs_now (s : State) : (pollInputs s).now = s.now := by simp [pollInputs]
@[simp] theorem pollInputs_cfg (s : State) : (pollInputs s).cfg = s.cfg := by simp [pollInputs]

/-- With no reset to come, the inputs due at a tick are the host's keys. -/
theorem pollInputs_of_noReset {s : State} (h : noReset s = true) : pollInputs s = takeKey s := by
  rw [pollInputs, takeReset_of_noReset h]

theorem noReset_pollInputs {s : State} (h : noReset s = true) : noReset (pollInputs s) = true := by
  rw [pollInputs_of_noReset h]; simpa [noReset] using h

theorem noReset_tick {s : State} (h : noReset s = true) : noReset (tick s) = true := by
  simp only [noReset, tick_eq_beforeDevice, (hostRun_hostOnly _).resets, (deviceRun_deviceOnly _).resets, beforeDevice_resets]
  exact h

/-- A property kept by every tick of the running cycle, with the inputs due before it, holds when it stops. -/
theorem runToAwait_induct {P : State → Prop}
    (ht : ∀ u, P u → u.dev.state ≠ .awaitRequest → P (advance (pollInputs u))) (n : Nat) {s : State} (h : P s) :
    P (runToAwait n s) := by
  induction n generalizing s with
  | zero => exact h
  | succ n ih =>
    unfold runToAwait
    split
    · exact h
    · exact ih (ht s h ‹_›)

/-- The cycle stops as soon as the device awaits a request. -/
theorem runToAwait_of_awaiting (n : Nat) {s : State} (h : s.dev.state = .awaitRequest) : runToAwait n s = s := by
  cases n with
  | zero => rfl
  | succ n => simp [runToAwait, h]

/-- A measure that each tick of the running cycle lowers, and that is at most the fuel, makes the cycle end. -/
theorem runToAwait_ends {P : State → Prop} (m : State → Nat)
    (ht : ∀ u, P u → u.dev.state ≠ .awaitRequest →
      P (advance (pollInputs u)) ∧ ((advance (pollInputs u)).dev.state = .awaitRequest ∨ m (advance (pollInputs u)) < m u))
    (n : Nat) {s : State} (h : P s) (hn : m s < n) : (runToAwait n s).dev.state = .awaitRequest := by
  induction n generalizing s with
  | zero => omega
  | succ n ih =>
    unfold runToAwait
    split
    · assumption
    · obtain ⟨hp, ha | hl⟩ := ht s h ‹_›
      · rw [runToAwait_of_awaiting n ha]; exact ha
      · exact ih hp (by omega)

/-- All nine request-byte instructions run the cycle of their byte (44 R191 to R199). -/
theorem exec_decodeRequest (b : Byte) (s : State) : exec (decodeRequest b) s = .next (deviceCycle b s) := by
  unfold decodeRequest
  split
  · subst b; rfl
  iterate 7
    split
    · subst b; rfl
  rfl

/-- A key's command begins its transaction, which polls once. -/
theorem exec_decodeKey {k : Byte} {entry : Nat} {i : Instr} (h : decodeKey k entry = .ok i) (s : State) :
    exec i s = .next (firstPoll s (openCommand i s)) := by
  have idle : firstPoll s s = s := by
    obtain ⟨hi, e⟩ | ⟨-, e⟩ := firstPoll_cases s s <;> rw [e]
    exact hostRun_of_idle hi
  have nothing : ∀ r : Host.Outcome State Fault Refusal, r = .next s → r = .next (firstPoll s s) := fun r h => by
    rw [h, idle]
  unfold decodeKey at h
  split at h
  · cases h; rfl
  split at h
  · cases h; exact nothing _ rfl
  split at h
  · cases h; rfl
  split at h
  · cases h; exact nothing _ rfl
  split at h
  · cases h; exact nothing _ rfl
  · cases h

/-- What a step that answers a next state has done: a request's cycle, a reset, a key, or a tick. -/
theorem step_cases {s t : State} (h : step s = .next t) :
    configLegal s.cfg = true
    ∧ ((s.dev.state = .awaitRequest ∧ s.duart.rxFull = true ∧ t = deviceCycle s.duart.rxd s)
      ∨ (requestPending s = false ∧ resetPending s = true ∧ t = takeReset s)
      ∨ (requestPending s = false ∧ resetPending s = false ∧ (∃ k, dueKey s = some k) ∧ t = takeKey s)
      ∨ (requestPending s = false ∧ resetPending s = false ∧ dueKey s = none ∧ t = advance s)) := by
  unfold step at h
  split at h
  swap
  · cases h
  refine ⟨‹_›, ?_⟩
  split at h
  · rw [exec_decodeRequest] at h
    cases h
    rename_i hr
    simp only [requestPending, Bool.and_eq_true, decide_eq_true_eq] at hr
    exact .inl ⟨hr.1, hr.2, rfl⟩
  have hr : requestPending s = false := by simp_all
  split at h
  · cases h
    exact .inr (.inl ⟨hr, ‹_›, rfl⟩)
  have hp : resetPending s = false := by simp_all
  split at h
  · rename_i k hk
    have idle : s.host.state = .idle := (dueKey_some hk).1
    refine .inr (.inr (.inl ⟨hr, hp, ⟨k, hk⟩, ?_⟩))
    have key : takeKey s = hostRun (openKey s) := if_pos idle
    have drop : (dropKey s).host.state = .idle := idle
    split at h
    · rename_i i hi
      rw [exec_decodeKey hi] at h
      cases h
      rw [key, firstPoll, if_pos drop, openKey]
      simp only [hk, hi]
    · rename_i e he
      cases h
      rw [key, openKey]
      simp only [hk, he]
      exact (hostRun_of_idle drop).symm
  · cases h
    exact .inr (.inr (.inr ⟨hr, hp, ‹_›, rfl⟩))

end Sys2Proof.Machine
end

