-- ==== Sys2Proof/Tests/Slice0.lean ====
section
/-! SUPPORT. Tests of the model against spec/opcode_table.json and spec/95_test_vectors.md, the refusals of the
well-formedness check, and for each statement with hypotheses a state that meets them. -/

set_option maxRecDepth 100000

namespace Sys2Proof.Tests

open Sys2Proof.Machine

/-! ### Well-formedness: a zone digit is no `STATUS_ONLY` byte (30 R95, V5.3) -/

theorem test_wellFormed_refuses_first_digit : (Instr.statusOnly 0x31).wellFormed = false := by decide
theorem test_wellFormed_refuses_last_digit : (Instr.statusOnly 0x38).wellFormed = false := by decide
theorem test_wellFormed_takes_zero : (Instr.statusOnly 0x30).wellFormed = true := by decide
theorem test_wellFormed_takes_nine : (Instr.statusOnly 0x39).wellFormed = true := by decide

/-! ### Decoding: each byte as the `encoding` column of spec/opcode_table.json spells it -/

theorem test_decode_zoneSelect1 : decode ⟨.request, 0b00110001, 0⟩ = .ok .zoneSelect1 := by decide
theorem test_decode_zoneSelect2 : decode ⟨.request, 0b00110010, 0⟩ = .ok .zoneSelect2 := by decide
theorem test_decode_zoneSelect3 : decode ⟨.request, 0b00110011, 0⟩ = .ok .zoneSelect3 := by decide
theorem test_decode_zoneSelect4 : decode ⟨.request, 0b00110100, 0⟩ = .ok .zoneSelect4 := by decide
theorem test_decode_zoneSelect5 : decode ⟨.request, 0b00110101, 0⟩ = .ok .zoneSelect5 := by decide
theorem test_decode_zoneSelect6 : decode ⟨.request, 0b00110110, 0⟩ = .ok .zoneSelect6 := by decide
theorem test_decode_zoneSelect7 : decode ⟨.request, 0b00110111, 0⟩ = .ok .zoneSelect7 := by decide
theorem test_decode_zoneSelect8 : decode ⟨.request, 0b00111000, 0⟩ = .ok .zoneSelect8 := by decide
/-- V5.3: a '1' with bit 7 set. -/
theorem test_decode_statusOnly_high : decode ⟨.request, 0b10110001, 0⟩ = .ok (.statusOnly 0xB1) := by decide
theorem test_decode_statusOnly_zero : decode ⟨.request, 0b00000000, 0⟩ = .ok (.statusOnly 0x00) := by decide
theorem test_decode_keyHostStatus : decode ⟨.key, 0b00110001, 0⟩ = .ok .keyHostStatus := by decide
theorem test_decode_keyWeather : decode ⟨.key, 0b00110010, 0⟩ = .ok .keyWeather := by decide
theorem test_decode_keyHostZone : decode ⟨.key, 0b00110011, 9⟩ = .ok (.keyHostZone 9) := by decide
theorem test_decode_keyReserved : decode ⟨.key, 0b00110100, 0⟩ = .ok .keyReserved := by decide
theorem test_decode_keyExit : decode ⟨.key, 0b01110001, 0⟩ = .ok .keyExit := by decide
theorem test_decode_refuses_key : decode ⟨.key, 0b01110010, 0⟩ = .error (.unassignedKey 0x72) := by decide

theorem test_tableWord_zoneSelect3 : decodeTableWord 8 0x33 = some .zoneSelect3 := by decide
theorem test_tableWord_statusOnly : decodeTableWord 8 0x3F = some (.statusOnly 0x3F) := by decide
theorem test_tableWord_too_short : decodeTableWord 0 0x33 = none := by decide
theorem test_fetchWord_runs : step (State.reset.withFetchWord 8 0x33) = exec .zoneSelect3 (State.reset.withFetchWord 8 0x33) :=
  rfl

/-! ### Formats -/

/-- V2.1. -/
theorem test_frame_good : decodeFrame 0x000015051A = some ⟨215, 0⟩ := by decide
/-- V2.3. -/
theorem test_frame_largest : decodeFrame 0xFFFF7FFF7C = some ⟨1525, 2805⟩ := by decide
/-- V2.4. -/
theorem test_frame_bad_checksum : decodeFrame 0x000015051B = none := by decide
/-- V2.9. -/
theorem test_frame_negative : decodeFrame 0x37029105CF = some ⟨-175, 552⟩ := by decide
/-- V5.1. -/
theorem test_response_line : responseLine 71 128 0x33 =
    [0x54, 0x65, 0x6D, 0x70, 0x3A, 0x20, 0x37, 0x31, 0x20, 0x46, 0x2C, 0x20, 0x4D, 0x6F, 0x69, 0x73, 0x74, 0x75, 0x72,
     0x65, 0x3A, 0x20, 0x31, 0x32, 0x38, 0x2C, 0x20, 0x43, 0x75, 0x72, 0x72, 0x65, 0x6E, 0x74, 0x20, 0x5A, 0x6F, 0x6E,
     0x65, 0x3A, 0x20, 0x33, 0x0A] := by decide
/-- V5.2: the shortest and the longest line. -/
theorem test_response_lengths :
    (responseLine 0 0 0x30).length = 40 ∧ (responseLine (-243) 255 0x38).length = 45 := by decide
/-- V6.5. -/
theorem test_filter : filterPrintable Config.reference [0x00, 0x1F, 0x20, 0x7E, 0x7F, 0x80, 0xFF] = [0x20, 0x7E] := by decide
/-- V6.6. -/
theorem test_log_line : logLine ⟨10, 9, 2026, 8, 1, 2⟩ [0x54] =
    [0x31, 0x31, 0x2F, 0x31, 0x30, 0x2F, 0x32, 0x30, 0x32, 0x36, 0x20, 0x30, 0x38, 0x3A, 0x30, 0x31, 0x3A, 0x30, 0x32,
     0x3A, 0x20, 0x54, 0x0A] := by decide

/-! ### One instruction each, on a machine with short times (a cycle is one step; the times do not matter) -/

/-- What a test asks of an outcome. -/
def after {α : Type} (o : Host.Outcome State Fault Refusal) (f : State → α) : Option α :=
  match o with
  | .next s => some (f s)
  | .fault _ => none
  | .refused _ => none

/-- Reset with a start signal of one tick, a timer of four counts and one tick for a byte; the held temperature
is 21.5 degrees, every byte to the host is lost, the moisture is 128. -/
def tiny : State :=
  { State.resetWith { Config.reference with
      tStartUs := 1, timerBoundUs := 4, bitThresholdUs := 2, byteTimeUs := 1, tempResetIdx := 1740 } with
    env.sensor := [⟨false, 999⟩], env.moisture := [128], env.chanD2H := List.replicate 60 none }

/-- The zone, the mask, the relays and the length of the response. -/
def zone (s : State) : Byte × Byte × Byte × Nat := (s.dev.curZone, s.dev.zmask, s.zact.zout, s.dev.txLen)

/-! V4.1, V5.1: each zone's mask at the relays, and the line of 43 bytes for 71 F and moisture 128. -/

theorem test_zoneSelect1 : after (exec .zoneSelect1 tiny) zone = some (0x31, 0x01, 0x01, 43) := by decide
theorem test_zoneSelect2 : after (exec .zoneSelect2 tiny) zone = some (0x32, 0x02, 0x02, 43) := by decide
theorem test_zoneSelect3 : after (exec .zoneSelect3 tiny) zone = some (0x33, 0x04, 0x04, 43) := by decide
theorem test_zoneSelect4 : after (exec .zoneSelect4 tiny) zone = some (0x34, 0x08, 0x08, 43) := by decide
theorem test_zoneSelect5 : after (exec .zoneSelect5 tiny) zone = some (0x35, 0x10, 0x10, 43) := by decide
theorem test_zoneSelect6 : after (exec .zoneSelect6 tiny) zone = some (0x36, 0x20, 0x20, 43) := by decide
theorem test_zoneSelect7 : after (exec .zoneSelect7 tiny) zone = some (0x37, 0x40, 0x40, 43) := by decide
theorem test_zoneSelect8 : after (exec .zoneSelect8 tiny) zone = some (0x38, 0x80, 0x80, 43) := by decide

/-- V5.5: '9' after zone 3 keeps zone 3 and is not echoed. -/
theorem test_statusOnly_keeps_zone :
    after (exec (.statusOnly 0x39) { tiny with dev.curZone := 0x33, dev.zmask := 4, zact.zsr := 4, zact.zout := 4 })
      (fun s => (zone s, s.dev.txMsg[41]?)) = some ((0x33, 4, 4, 43), some 0x33) := by decide

/-- V2.1 on a wire with short widths, V5.4: the good frame is received and the response carries 71 F. -/
theorem test_statusOnly_reads_frame :
    after (exec (.statusOnly 0x30) { tiny with
        env.sensor := sensorScript tiny.cfg ⟨1, 1, 1, 1, 1, 2, 1⟩ 0x000015051A ++ [⟨false, 999⟩] })
      (fun s => (s.dec.result, s.dec.frame, s.dec.tempTenths, s.dec.tempValid, s.dev.tempF))
    = some (.ok, 0x000015051A, 215, true, 71) := by decide

/-- A host whose port is available and ready (V6.1). -/
def ready : State := { tiny with env.port := [true], env.wrOk := [true] }

/-- V6.1: `HOST STATUS` sends 0x30 with the display flag. -/
theorem test_keyHostStatus :
    after (exec .keyHostStatus ready) (fun s => (s.host.htxd, s.host.htxReady, s.host.disp, s.host.state))
    = some (0x30, false, true, .blind) := by decide
/-- V6.1: `HOST ZONE 3` sends 0x33 without it. -/
theorem test_keyHostZone :
    after (exec (.keyHostZone 3) ready) (fun s => (s.host.htxd, s.host.htxReady, s.host.disp, s.host.state))
    = some (0x33, false, false, .blind) := by decide
/-- V6.1: `HOST ZONE 9` sends nothing. -/
theorem test_keyHostZone_refused :
    after (exec (.keyHostZone 9) ready) (fun s => (s.host.htxReady, s.host.result, s.host.lineOpen))
    = some (true, .invalidZoneInput, false) := by decide
/-- 30 R93, R94. -/
theorem test_keyWeather : after (exec .keyWeather ready) (fun s => s.host.state) = some .idle := by decide
theorem test_keyReserved : after (exec .keyReserved ready) (fun s => s.host.state) = some .idle := by decide
theorem test_keyExit : after (exec .keyExit ready) (fun s => s.host.state) = some .idle := by decide

/-- 00 R10: the command's flag is a parameter. -/
theorem test_disp_flag_is_a_parameter :
    after (exec (.keyHostZone 3) { ready with cfg.dispZone := true }) (fun s => s.host.disp) = some true := by decide

/-! ### Who moves after whom inside a tick (00 R7) -/

/-- A response byte arrives at the next tick, and a key is due then. -/
def arriving : State :=
  { ready with duart.txd := 0x54, duart.txReady := false, duart.txRemain := 1, env.chanD2H := [some 0x54],
               env.keys := [⟨1, 0x31, 0⟩] }

/-- The command opens the line before the delivery, and the byte is queued (43 R171, R172). -/
theorem test_open_then_deliver :
    (advance { arriving with env.turns := [[.key, .duart, .hostUart, .dev, .host]] }).host.hrxdQ = [0x54] := by decide
/-- The delivery comes first, and the byte is lost on the closed line; the command then opens it. -/
theorem test_deliver_then_open :
    (fun t : State => (t.host.hrxdQ, t.host.lineOpen))
      (advance { arriving with env.turns := [[.duart, .key, .hostUart, .host, .dev]] }) = ([], true) := by decide
/-- An order that a rule forbids (the program before the transmitter) is not taken. -/
theorem test_forbidden_turn :
    nextTurn { arriving with env.turns := [[.dev, .duart, .hostUart, .host]] } = plainTurn := by decide

/-! ### The byte in flight at a reset (70 R261) -/

/-- A request is in its last tick of flight to the device. -/
def asking : State :=
  { tiny with host.htxd := 0x33, host.htxReady := false, host.htxRemain := 1, env.chanH2D := [some 0x33] }

theorem test_flight_arrives : (hostTransmit asking).duart.rxFull = true := by decide
theorem test_device_reset_loses_the_flight : (hostTransmit (deviceReset asking)).duart.rxFull = false := by decide
/-- The loss ends with the flight: after both resets the next byte of the host reaches the device. -/
theorem test_next_byte_arrives :
    (fun t : State => (t.duart.rxFull, t.duart.rxd))
      (hostTransmit (hostWriteByte 0x34 { hostReset (deviceReset asking) with env.chanH2D := [some 0x34] }))
    = (true, 0x34) := by decide

/-- V6.8: an unread byte is kept. -/
theorem test_overrun : ((deviceReceive 0x35 (deviceReceive 0x33 tiny)).duart.rxd, (deviceReceive 0x35 tiny).duart.rxd)
    = (0x33, 0x35) := by decide
/-- V6.7: 70 bytes queued, 64 read, six stay. -/
theorem test_hostRead : ((hostRead { tiny with host.hrxdQ := List.replicate 70 7 }).host.hLen,
    (hostRead { tiny with host.hrxdQ := List.replicate 70 7 }).host.hrxdQ.length) = (64, 6) := by decide

/-! ### States that meet the hypotheses of the statements -/

/-- The default configuration with 9600 baud and a held temperature of zero: legal. -/
def usual : Config := { Config.reference with byteTimeUs := 1042, tempResetIdx := 1525 }

/-- The machine after reset under it. -/
def start : State := State.resetWith usual

theorem witness_legal : configLegal start.cfg = true ∧ noReset start = true ∧ wiresIdle start = true := by decide

theorem witness_DecodeOfEncodeIsTheInstruction :
    (Instr.statusOnly 0x30).wellFormed = true ∧ (Instr.keyHostZone 8).wellFormed = true := by decide

theorem witness_DecodedCodeEncodesBack :
    decode ⟨.key, 0x33, 5⟩ = .ok (.keyHostZone 5) ∧ (Code.mk .key 0x33 5).iface = .key ∧ (Code.mk .key 0x33 5).byte = 0x33 := by
  decide

theorem witness_RequestByteClasses :
    isZoneDigit 0x31 = true ∧ isZoneDigit 0x38 = true ∧ isZoneDigit 0x30 = false ∧ isZoneDigit 0x39 = false := by decide

theorem witness_ChecksumCatchesErrorsInOneByte :
    checksumOk 0x000015051A = true
    ∧ (0xFF : BitVec 40) <<< 32 ≠ 0 ∧ ((0xFF : BitVec 40) <<< 32) &&& ((0xFF : BitVec 40) <<< (8 * 4)) = (0xFF : BitVec 40) <<< 32
    ∧ (0x01 : BitVec 40) ≠ 0 ∧ (0x01 : BitVec 40) &&& ((0xFF : BitVec 40) <<< (8 * 0)) = 0x01 := by decide

theorem witness_FahrenheitRoundsHalfAwayFromZero :
    (25 : Int) % 50 = 25 ∧ (50 * cToF 25 - (9 * 25 + 1600)).natAbs = 25 ∧ (-1525 : Int) ≤ -1525 ∧ (1525 : Int) ≤ 1525 := by decide

theorem witness_ZoneMaskRoundTrip : 1 ≤ 1 ∧ 1 ≤ 8 ∧ 8 ≤ 8 := by decide

theorem witness_ResponseLineLength : (-243 : Int) ≤ -243 ∧ (-243 : Int) ≤ 307 ∧ (307 : Int) ≤ 307 := by decide

theorem witness_CompleteLineLosesOnlyItsNewline :
    usual.printableLo = 0x20 ∧ usual.printableHi = 0x7E ∧ (0x30 : Byte) = 0x30 ∧ isZoneDigit 0x31 = true ∧ isZoneDigit 0x38 = true := by
  decide

/-- The wire high, and the wire driven low; the timer below and at its bound. -/
def wireHigh : State := { start with env.sensor := [⟨false, 9⟩], dec.tmrCnt := 254 }
def wireLow : State := { start with env.sensor := [⟨true, 9⟩], dec.tmrCnt := 254 }

theorem witness_MeasureReturnsAtTheOppositeLevel :
    wireHigh.dec.tmrCnt < wireHigh.cfg.timerBoundUs ∧ lineLevel wireHigh = .high ∧ lineLevel wireLow ≠ .high
    ∧ wireHigh.dec.swDrive = false ∧ (startRead wireHigh).dec.swDrive = true
    ∧ (measureCount wireHigh).cfg.timerBoundUs ≤ (measureCount wireHigh).dec.tmrCnt := by decide

theorem witness_ClassifiedBitEntersTheFrame : 0 < 39 ∧ 38 < 39 := by decide

/-- All forty bits in, the device at the check. -/
def atCheck : State :=
  { start with dec.state := .check, dec.bitIdx := 40, dec.frame := 0x000015051A, dev.state := .decodeActuate }

theorem witness_HoldingRegistersCommitTogether :
    decoderInPlace atCheck = true ∧ checksumOk atCheck.dec.frame = true ∧ decoderInPlace start = true := by decide

theorem witness_ClockRiseShifts : start.zact.zclk = false ∧ (setZclk true start).zact.zclk = true := by decide

theorem witness_LatchRiseCopies : start.zact.zlatch = false ∧ (setZlatch true start).zact.zlatch = true := by decide

theorem witness_EightClocksLoadTheMask : wiresIdle start = true := by decide

/-- The last bit's low phase is over, the mask of zone 3 is shifted in, the sensor silent, the host idle. -/
def beforeLatch : State :=
  { start with
    dev.state := .decodeActuate, dev.pos := .clkLow, dev.curZone := 0x33, dev.zmask := 4, zact.zsr := 4
    env.sensor := [⟨false, 9⟩] }

theorem witness_RelaysMoveOnlyAtTheLatch :
    configLegal beforeLatch.cfg = true ∧ (tick beforeLatch).zact.zout ≠ beforeLatch.zact.zout := by decide

theorem witness_ZoneSelectSetsTheZone :
    configLegal start.cfg = true ∧ noReset start = true ∧ wiresIdle start = true := by decide

theorem witness_StatusOnlyKeepsTheZone :
    isZoneDigit 0x30 = false ∧ isZoneDigit 0x39 = false ∧ configLegal start.cfg = true ∧ noReset start = true := by decide

theorem witness_CycleTimeIsBounded : configLegal start.cfg = true ∧ noReset start = true := by decide

theorem witness_RequestLeavesTheHostAlone :
    hostQuiet start = true ∧ noReset start = true ∧ isZoneDigit 0x30 = false
    ∧ (Instr.zoneSelect8, (0x38 : Byte)) ∈ [(Instr.zoneSelect1, (0x31 : Byte)), (.zoneSelect8, 0x38)] := by decide

theorem witness_FailedReadKeepsTheHeldValues : configLegal start.cfg = true ∧ noReset start = true := by decide

theorem witness_ErrorRecordOfARead : configLegal start.cfg = true ∧ noReset start = true := by decide

/-- The wire at one level for the start signal and one timer bound. -/
def stuck (low : Bool) : State := { start with env.sensor := drive low 1255 ++ [⟨true, 3⟩] }

theorem witness_StuckWireGivesNoFrame_silent :
    configLegal (stuck true).cfg = true ∧ noReset (stuck true) = true ∧ (stuck true).cfg.tStartUs + (stuck true).cfg.timerBoundUs ≤ 1255
    ∧ (stuck true).env.sensor = drive true 1255 ++ [⟨true, 3⟩] ∧ (stuck false).env.sensor = drive false 1255 ++ [⟨true, 3⟩] := by
  decide

/-- The nominal widths of 95, section 2.2; and those of V2.16 to V2.20, with the threshold's two sides, the largest
count and no gap. -/
def nominal : Widths := nominalWidths usual
def extreme : Widths := ⟨0, 254, 254, 254, 29, 30, 1⟩

theorem test_nominal : nominal = ⟨30, 80, 80, 50, 27, 70, 50⟩ := by decide

/-- The wire breaks off after the given bits, low or high. -/
def broken (w : Widths) (bits : List Bool) (low : Bool) : State :=
  { start with env.sensor := breakOffScript usual w bits low 255 ++ [⟨false, 3⟩] }

/-- V2.13 (low after the handshake), and a wire that stays high in the last bit. -/
theorem witness_StuckWireGivesNoFrame_broken :
    configLegal (broken nominal [] true).cfg = true ∧ noReset (broken nominal [] true) = true
    ∧ widthsLegal (broken nominal [] true).cfg nominal = true ∧ widthsLegal usual extreme = true
    ∧ ([] : List Bool).length < (broken nominal [] true).cfg.nBits ∧ (broken nominal [] true).cfg.timerBoundUs ≤ 255
    ∧ (List.replicate 39 true).length < (broken extreme (List.replicate 39 true) false).cfg.nBits
    ∧ (broken nominal [] true).env.sensor
        = breakOffScript (broken nominal [] true).cfg nominal [] true 255 ++ [⟨false, 3⟩]
    ∧ (broken extreme (List.replicate 39 true) false).env.sensor
        = breakOffScript usual extreme (List.replicate 39 true) false 255 ++ [⟨false, 3⟩] := by decide

theorem witness_WellBehavedSensorIsDecoded :
    configLegal usual = true ∧ usual.nBits = 40 ∧ widthsLegal usual nominal = true ∧ widthsLegal usual extreme = true
    ∧ noReset { start with env.sensor := sensorScript usual nominal 0x000015051A ++ [] } = true
    ∧ ({ start with env.sensor := sensorScript usual nominal 0x000015051A ++ [] } : State).env.sensor
        = sensorScript usual nominal 0x000015051A ++ []
    ∧ decodeFrame 0x000015051A = some ⟨215, 0⟩ ∧ decodeFrame 0x000015051B = none := by decide

theorem witness_OverrunKeepsTheOlderByte :
    start.duart.rxFull = false ∧ (deviceReceive 0x33 start).duart.rxFull = true := by decide

/-- An open line with one byte queued, and with a full queue. -/
def lineUp (n : Nat) : State :=
  { start with host.state := .waitRd, host.lineOpen := true, host.hrxdQ := List.replicate n 0x54, env.clock := [⟨10, 9, 2026, 8, 1, 2⟩] }

theorem witness_HostQueueNeedsAnOpenLine :
    (lineUp 63).host.lineOpen = true ∧ (lineUp 63).host.hrxdQ.length < (lineUp 63).cfg.hostFifoDepth
    ∧ start.host.lineOpen = false ∧ (lineUp 64).cfg.hostFifoDepth ≤ (lineUp 64).host.hrxdQ.length := by decide

theorem witness_FlightTakesOneByteTime :
    1 ≤ start.cfg.byteTimeUs ∧ 0 < start.cfg.byteTimeUs ∧ 1041 < start.cfg.byteTimeUs := by decide

/-- A request byte in its last tick of flight. -/
def inFlight : State := { start with host.htxd := 0x33, host.htxReady := false, host.htxRemain := 1 }

theorem witness_HostFlightTakesOneByteTime :
    1 ≤ start.cfg.byteTimeUs ∧ 1041 < start.cfg.byteTimeUs ∧ inFlight.host.htxReady = false
    ∧ 0 < max 1 inFlight.host.htxRemain ∧ ({ inFlight with host.htxRemain := 9 } : State).host.htxReady = false
    ∧ 8 < max 1 ({ inFlight with host.htxRemain := 9 } : State).host.htxRemain := by decide

/-- A response of two bytes is about to leave. -/
def responding : State :=
  { start with dev.state := .respond, dev.txMsg := 0x54 :: 0x0A :: List.replicate 43 0, dev.txLen := 2 }

theorem witness_ResponseLeavesInOrder :
    configLegal responding.cfg = true ∧ responding.dev.state = .respond ∧ responding.dev.yielded = false
    ∧ responding.dev.txIdx = 0 ∧ 0 < responding.dev.txLen ∧ responding.dev.txLen ≤ responding.dev.txMsg.length
    ∧ responding.duart.txReady = true ∧ 0 < responding.dev.txLen ∧ 1 < responding.dev.txLen
    ∧ 0 < responding.cfg.byteTimeUs ∧ 1041 < responding.cfg.byteTimeUs := by decide

theorem witness_AwaitingDeviceStandsStill :
    (deviceReceive 0x33 start).dev.state = .awaitRequest ∧ (deviceReceive 0x33 start).duart.txReady = true
    ∧ (deviceReceive 0x33 start).duart.rxFull = true := by decide

/-- An idle host with answers for the port and for write readiness, and a lost byte. -/
def answering : State := { start with env.port := [true], env.wrOk := [true], env.chanH2D := [none] }

theorem witness_StatusKeySendsTheStatusByte :
    answering.host.state = .idle ∧ answering.host.htxReady = true ∧ 1 ≤ answering.cfg.hostDeadlineUs
    ∧ 1 ≤ answering.cfg.blindWaitUs ∧ answering.env.port = true :: [] ∧ answering.env.wrOk = true :: [] := by decide

theorem witness_ZoneKeySendsTheZoneDigit :
    1 ≤ 1 ∧ 8 ≤ answering.cfg.nZones ∧ answering.host.state = .idle ∧ answering.host.htxReady = true ∧ 1 ≤ answering.cfg.hostDeadlineUs
    ∧ 1 ≤ answering.cfg.blindWaitUs ∧ answering.env.port = true :: [] ∧ answering.env.wrOk = true :: [] := by decide

/-- With more than eight zones the byte is cut to eight bits (log 33). -/
theorem test_zone_257 :
    after (exec (.keyHostZone 257) { ready with cfg.nZones := 300 }) (fun s => s.host.htxd) = some 0x31 := by decide

theorem witness_ZoneKeyOutOfRangeIsRefused : start.host.state = .idle ∧ (0 < 1 ∨ start.cfg.nZones < 0) ∧ (9 < 1 ∨ start.cfg.nZones < 9) := by decide

/-- Both commands start a transaction, the second with the smallest and with the largest zone number. -/
theorem witness_commandStarts :
    commandStarts usual .keyHostStatus 0x30 true ∧ commandStarts usual (.keyHostZone 1) 0x31 false
    ∧ commandStarts usual (.keyHostZone 8) 0x38 false :=
  ⟨.inl ⟨rfl, rfl, rfl⟩, .inr ⟨1, by decide, by decide, rfl, rfl, rfl⟩, .inr ⟨8, by decide, by decide, rfl, rfl, rfl⟩⟩

theorem witness_NoPortEndsTheCommand :
    commandStarts start.cfg .keyHostStatus 0x30 true ∧ start.host.state = .idle
    ∧ ({ start with env.port := [false] } : State).env.port = false :: [] :=
  ⟨witness_commandStarts.1, by decide, by decide⟩

theorem witness_NoCommandDuringATransaction : (lineUp 1).host.state ≠ .idle := by decide

/-- A host whose port opens and is never ready, with a deadline of two polls. -/
def refusing : State := { start with cfg.hostDeadlineUs := 2, env.port := [true], env.wrOk := [false, false] }

theorem witness_WriteDeadlineIsExact :
    commandStarts refusing.cfg (.keyHostZone 8) 0x38 false ∧ refusing.host.state = .idle ∧ 1 ≤ refusing.cfg.hostDeadlineUs ∧ refusing.env.port = true :: []
    ∧ refusing.env.wrOk = List.replicate refusing.cfg.hostDeadlineUs false :=
  ⟨witness_commandStarts.2.2, by decide⟩

/-- Readiness at the first poll and at the last one before the deadline (V6.3). -/
def readyAfter (k : Nat) : State :=
  { start with cfg.hostDeadlineUs := 3, env.port := [true], env.wrOk := List.replicate k false ++ [true, false] }

theorem witness_WriteDeadlineIsExact_ready :
    commandStarts (readyAfter 2).cfg .keyHostStatus 0x30 true ∧ (readyAfter 2).host.state = .idle
    ∧ (readyAfter 2).host.htxReady = true ∧ 1 ≤ (readyAfter 2).cfg.blindWaitUs
    ∧ 0 < (readyAfter 0).cfg.hostDeadlineUs ∧ 2 < (readyAfter 2).cfg.hostDeadlineUs
    ∧ (readyAfter 2).env.port = true :: []
    ∧ (readyAfter 0).env.wrOk = List.replicate 0 false ++ true :: [false]
    ∧ (readyAfter 2).env.wrOk = List.replicate 2 false ++ true :: [false] := ⟨witness_commandStarts.1, by decide⟩

theorem witness_ReadDeadlineIsExact :
    commandStarts answering.cfg (.keyHostZone 1) 0x31 false ∧ answering.host.state = .idle ∧ answering.host.htxReady = true ∧ 1 ≤ answering.cfg.hostDeadlineUs
    ∧ 1 ≤ answering.cfg.blindWaitUs ∧ answering.env.port = true :: [] ∧ answering.env.wrOk = true :: []
    ∧ answering.env.chanH2D = none :: [] ∧ answering.dev.state = .awaitRequest ∧ answering.duart.rxFull = false
    ∧ answering.duart.txReady = true := ⟨witness_commandStarts.2.1, by decide⟩

theorem witness_ReadEndsTheTransaction :
    (lineUp 1).host.state = .waitRd ∧ (lineUp 1).host.timer < (lineUp 1).cfg.hostDeadlineUs ∧ (lineUp 1).host.lineOpen = true
    ∧ 1 ≤ (lineUp 1).host.hrxdQ.length ∧ (lineUp 1).env.clock = ⟨10, 9, 2026, 8, 1, 2⟩ :: [] := by decide

/-- A tick is a step of the machine after reset, and every invariant holds before it. -/
theorem witness_invariants :
    step start = .next (advance start) ∧ zonesAgree start = true ∧ actuatorFollows start = true ∧ hostLineHeld start = true
    ∧ markInFlight start = true ∧ decoderInPlace start = true ∧ buffersInRange start = true
    ∧ readingsInRange start = true := ⟨rfl, by decide⟩

/-- The invariants hold, and a step is taken, in the middle of `write_zone` as well. -/
theorem witness_invariants_in_writeZone :
    step beforeLatch = .next (advance beforeLatch) ∧ zonesAgree beforeLatch = true ∧ actuatorFollows beforeLatch = true :=
  ⟨rfl, by decide, by decide⟩

/-- A relay is energised and zone 3 is held. -/
def watering : State := { start with dev.curZone := 0x33, dev.zmask := 4, zact.zsr := 4, zact.zout := 4 }

theorem witness_OnlyAResetSwitchesTheRelaysOff :
    step watering = .next (advance watering) ∧ zonesAgree watering = true ∧ actuatorFollows watering = true
    ∧ noReset watering = true ∧ watering.zact.zout ≠ 0 :=
  ⟨rfl, by decide, by decide, by decide, by decide⟩

/-- The invariants hold in the middle of a transaction as well. -/
theorem witness_invariants_in_transaction :
    step (lineUp 1) = .next (advance (lineUp 1)) ∧ hostLineHeld (lineUp 1) = true ∧ buffersInRange (lineUp 1) = true :=
  ⟨rfl, by decide, by decide⟩

/-- The invariants of the decoder hold in the middle of a read as well. -/
theorem witness_invariants_in_read :
    step atCheck = .next (advance atCheck) ∧ decoderInPlace atCheck = true ∧ readingsInRange atCheck = true :=
  ⟨rfl, by decide, by decide⟩

/-- A flight that is marked as lost is in progress. -/
theorem witness_mark_in_flight :
    step (deviceReset inFlight) = .next (advance (deviceReset inFlight)) ∧ (deviceReset inFlight).line.h2dLost = true
    ∧ markInFlight (deviceReset inFlight) = true := ⟨rfl, by decide⟩

/-- The host is busy while the device waits; and while a request byte is latched, so that the step is a cycle. -/
theorem witness_EveryTransactionEnds :
    hostLineHeld (lineUp 1) = true ∧ (lineUp 1).host.state ≠ .idle ∧ noReset (lineUp 1) = true
    ∧ step (lineUp 1) = .next (advance (lineUp 1))
    ∧ hostLineHeld (deviceReceive 0x33 (lineUp 1)) = true ∧ noReset (deviceReceive 0x33 (lineUp 1)) = true
    ∧ step (deviceReceive 0x33 (lineUp 1)) = exec .zoneSelect3 (deviceReceive 0x33 (lineUp 1)) :=
  ⟨by decide, by decide, by decide, rfl, by decide, by decide, rfl⟩

/-- The blind wait with an early response queued, at its first tick and at its last. -/
def blindWait (timer : Nat) : State :=
  { start with host.state := .blind, host.timer := timer, host.lineOpen := true, host.hrxdQ := [0x54] }

theorem witness_EveryTransactionEnds_blind :
    (blindWait 0).host.state = .blind ∧ (blindWait 0).host.lineOpen = true ∧ noReset (blindWait 0) = true
    ∧ (blindWait 0).host.timer + 1000000 ≤ (blindWait 0).cfg.blindWaitUs
    ∧ step (blindWait 999999) = .next (advance (blindWait 999999))
    ∧ (blindWait 999999).host.timer + ((advance (blindWait 999999)).now - (blindWait 999999).now)
        ≤ (blindWait 999999).cfg.blindWaitUs :=
  ⟨by decide, by decide, by decide, by decide, rfl, by decide⟩

/-- A byte is queued at the tick at which the blind wait ends. -/
theorem witness_ReadEndsTheTransaction_blind :
    (blindWait 1000000).host.state = .blind ∧ (blindWait 1000000).cfg.blindWaitUs ≤ (blindWait 1000000).host.timer
    ∧ 0 < (blindWait 1000000).cfg.hostDeadlineUs ∧ (blindWait 1000000).host.lineOpen = true
    ∧ 1 ≤ (blindWait 1000000).host.hrxdQ.length
    ∧ ({ blindWait 1000000 with env.clock := [⟨10, 9, 2026, 8, 1, 2⟩] } : State).env.clock
        = ⟨10, 9, 2026, 8, 1, 2⟩ :: [] := by decide

theorem witness_LogIsOnlyAppendedTo : step (lineUp 1) = .next (advance (lineUp 1)) := rfl

/-- A reset of one node is due. -/
def resetDue (n : Node) : State := { start with env.resets := [⟨0, n⟩] }

theorem witness_ResetsAreIndependent :
    configLegal (resetDue .device).cfg = true ∧ requestPending (resetDue .device) = false
    ∧ (resetDue .device).env.resets = ⟨0, .device⟩ :: [] ∧ 0 ≤ (resetDue .device).now
    ∧ (resetDue .host).env.resets = ⟨0, .host⟩ :: [] := by decide

/-- A request byte is latched; and a key is due. -/
def latched : State := deviceReceive 0x33 start
def keyDue : State := { start with env.keys := [⟨0, 0x33, 5⟩] }

theorem witness_StepRunsTheDecodedInstruction :
    configLegal latched.cfg = true ∧ latched.dev.state = .awaitRequest ∧ latched.duart.rxFull = true
    ∧ decode ⟨.request, latched.duart.rxd, 0⟩ = .ok .zoneSelect3
    ∧ requestPending keyDue = false ∧ resetPending keyDue = false ∧ keyDue.host.state = .idle
    ∧ keyDue.env.keys = ⟨0, 0x33, 5⟩ :: [] ∧ decode ⟨.key, 0x33, 5⟩ = .ok (.keyHostZone 5)
    ∧ ({ start with env.keys := [⟨0, 0x35, 0⟩] } : State).env.keys = ⟨0, 0x35, 0⟩ :: []
    ∧ decode ⟨.key, 0x35, 0⟩ = .error (.unassignedKey 0x35)
    ∧ requestPending start = false ∧ resetPending start = false ∧ dueKey start = none
    ∧ noReset start = true ∧ start.env.keys = [] := by decide

theorem witness_PlacedWordIsRunNext :
    configLegal start.cfg = true ∧ 8 ≤ 8 ∧ decodeTableWord 8 0x31 = some .zoneSelect1 := by decide

theorem witness_NothingIsFatal : configLegal start.cfg = true := by decide

theorem witness_IllegalConfigurationIsRefused :
    ({ start with cfg.timerBoundUs := 100 } : State).cfg.timerBoundUs ≤ start.cfg.pulseMaxUs
    ∧ ({ start with cfg.tStartUs := 999 } : State).cfg.tStartUs < start.cfg.tStartMinUs
    ∧ isZoneDigit ({ start with cfg.statusReqByte := 0x31 } : State).cfg.statusReqByte = true
    ∧ ({ start with cfg.hostFifoDepth := 63 } : State).cfg.hostFifoDepth < start.cfg.rxBufSize
    ∧ ({ start with cfg.rxBufSize := 0 } : State).cfg.rxBufSize < 1 := by decide

theorem witness_UserInterruptChangesNothing : step start = .next (advance start) := rfl

/-- The reset state with its free parameters is legal, so that the statements apply to it. -/
theorem test_reset_is_legal : configLegal State.reset.cfg = true := by decide

end Sys2Proof.Tests
end

/-! The scope of the model (spec/00_scope.md): what its configuration must satisfy, what a step runs, what the two
menu commands of the host start, and what holds after reset. -/

namespace Sys2Proof.Machine

/-! ### What a configuration must satisfy (00 R11, R12; 60 R254) -/

theorem configLegal_iff (c : Config) :
    configLegal c = true ↔
      c.pulseMaxUs < c.timerBoundUs ∧ c.tStartMinUs ≤ c.tStartUs ∧ 1 ≤ c.rxBufSize
        ∧ c.rxBufSize ≤ c.hostFifoDepth ∧ isZoneDigit c.statusReqByte = false
        ∧ 1 ≤ c.latchPulseUs ∧ 1 ≤ c.clkPulseUs ∧ 1 ≤ c.byteTimeUs := by
  simp [configLegal, and_assoc]

theorem step_of_illegal {s : State} (hc : ¬ configLegal s.cfg = true) : step s = .refused .illegalConfiguration :=
  if_neg hc

/-- Settles O59: each broken constraint contradicts its part of `configLegal_iff`. -/
theorem illegalConfigurationIsRefused : Obligations.IllegalConfigurationIsRefused := by
  intro s broken
  refine step_of_illegal fun legal => ?_
  obtain ⟨htimer, hstart, hbuf, hfifo, hbyte, hlatch, hclk, htime⟩ := (configLegal_iff s.cfg).1 legal
  obtain h | h | h | h | h | h | h | h := broken
  case inr.inr.inl => exact absurd h (by simp [hbyte])
  all_goals omega

/-! ### A command that starts a transaction, up to the blind wait (45 R200 to R206) -/

theorem exec_keyHostStatus (s : State) : exec .keyHostStatus s = .next (firstPoll s (openStatus s)) := rfl

theorem exec_keyHostZone (n : Nat) (s : State) : exec (.keyHostZone n) s = .next (firstPoll s (openZone n s)) := rfl

/-- A command of the menu that starts a transaction opens it at once and polls (45 R201). -/
theorem exec_of_commandStarts {i : Instr} {req : Byte} {disp : Bool} {s : State}
    (hi : commandStarts s.cfg i req disp) (idle : s.host.state = .idle) :
    exec i s = .next (hostRun (openTransaction req disp s)) := by
  obtain ⟨rfl, rfl, rfl⟩ | ⟨n, hn, hN, rfl, rfl, rfl⟩ := hi
  · rw [exec_keyHostStatus, firstPoll, if_pos idle, openStatus, if_pos idle]
  · rw [exec_keyHostZone, firstPoll, if_pos idle, openZone, if_pos idle, if_pos ⟨hn, hN⟩]

/-- With the port granted, `H_OPEN` opens the line with an empty queue and waits for write-readiness (43 R172,
45 R200). -/
theorem stepOpen_of_port {s : State} {ports : List Bool} (h : s.host.state = .opening)
    (hp : s.env.port = true :: ports) :
    stepOpen s = { s with
      host := { s.host with lineOpen := true, hrxdQ := [], state := .waitWr, timer := 0 }
      env := { s.env with port := ports } } := by
  simp only [stepOpen, h, askPort_scripted hp, if_true, openLine]

theorem openTransaction_of_port {s : State} {ports : List Bool} (hp : s.env.port = true :: ports)
    (req : Byte) (disp : Bool) :
    openTransaction req disp s = { s with
      host := { s.host with req := req, disp := disp, lineOpen := true, hrxdQ := [], state := .waitWr, timer := 0 }
      env := { s.env with port := ports } } :=
  stepOpen_of_port (s := { s with host.req := req, host.disp := disp, host.state := .opening }) rfl hp

/-- A poll before the deadline finds the line open, the transmitter free and readiness granted, and goes on to the
write (43 R170, 45 R203). -/
theorem stepWaitWr_of_ready {s : State} {readies : List Bool} (h : s.host.state = .waitWr)
    (ht : s.host.timer < s.cfg.hostDeadlineUs) (ho : s.host.lineOpen = true) (hr : s.host.htxReady = true)
    (hw : s.env.wrOk = true :: readies) :
    stepWaitWr s = { s with host := { s.host with state := .write }, env := { s.env with wrOk := readies } } := by
  simp only [stepWaitWr, h, if_pos ht, hostWrReady, askWrOk_scripted hw, ho, hr, Bool.and_self, if_true]

theorem stepBlind_of_waiting {s : State} (h : s.host.state = .blind) (ht : s.host.timer < s.cfg.blindWaitUs) :
    stepBlind s = { s with host := { s.host with timer := s.host.timer + 1 } } := by
  simp only [stepBlind, h, if_pos ht]

/-- A host that finds readiness writes the request and begins the blind wait, which counts its first tick at once
(45 R203, R205, R206). -/
theorem hostRun_of_ready {s : State} {readies : List Bool} (h : s.host.state = .waitWr)
    (ht : s.host.timer < s.cfg.hostDeadlineUs) (hb : 1 ≤ s.cfg.blindWaitUs) (ho : s.host.lineOpen = true)
    (hr : s.host.htxReady = true) (hw : s.env.wrOk = true :: readies) :
    hostRun s = { s with
      host := { s.host with
        htxd := s.host.req, htxReady := false, htxRemain := s.cfg.byteTimeUs, state := .blind, timer := 1 }
      line := { h2dLost := false }
      env := { s.env with wrOk := readies } } := by
  unfold hostRun
  rw [stepOpen_other (by simp [h]), stepWaitWr_of_ready h ht ho hr hw, stepWrite_eq rfl, stepBlind_of_waiting rfl,
    stepWaitRd_other (by simp), stepRead_other (by simp), stepRelease_other (by simp)]
  exact hb

/-- Both commands that start a transaction send their request byte at the first poll, if the port is granted and ready
(45 R201, R205). -/
theorem commandStarts_sends {i : Instr} {req : Byte} {disp : Bool} {s : State} {ports readies : List Bool}
    (hi : commandStarts s.cfg i req disp) (idle : s.host.state = .idle) (free : s.host.htxReady = true)
    (hd : 1 ≤ s.cfg.hostDeadlineUs) (hb : 1 ≤ s.cfg.blindWaitUs)
    (hp : s.env.port = true :: ports) (hw : s.env.wrOk = true :: readies) :
    exec i s = .next { s with
      host := { s.host with
        req := req, disp := disp, state := .blind, timer := 1, lineOpen := true, hrxdQ := []
        htxd := req, htxReady := false, htxRemain := s.cfg.byteTimeUs }
      line := { h2dLost := false }
      env := { s.env with port := ports, wrOk := readies } } := by
  rw [exec_of_commandStarts hi idle, openTransaction_of_port hp, hostRun_of_ready (readies := readies)]
  exacts [rfl, hd, hb, rfl, free, hw]

/-- Settles O35: `HOST_STATUS` is a command that starts a transaction, with `STATUS_REQ_BYTE`. -/
theorem statusKeySendsTheStatusByte : Obligations.StatusKeySendsTheStatusByte := by
  intro s ports readies idle free hd hb hp hw
  exact commandStarts_sends (.inl ⟨rfl, rfl, rfl⟩) idle free hd hb hp hw

/-- Settles O36: `HOST_ZONE(n)` with `n` in range is a command that starts a transaction, with the digit of `n`. -/
theorem zoneKeySendsTheZoneDigit : Obligations.ZoneKeySendsTheZoneDigit := by
  intro n s ports readies hn hN idle free hd hb hp hw
  exact commandStarts_sends (.inr ⟨n, hn, hN, rfl, rfl, rfl⟩) idle free hd hb hp hw

/-- Settles O37: of the outcomes of `openZone` only the refusal is left, and a host still idle does not poll. -/
theorem zoneKeyOutOfRangeIsRefused : Obligations.ZoneKeyOutOfRangeIsRefused := by
  intro n s idle out
  obtain ⟨-, hn, hN, -⟩ | ⟨-, -, refused⟩ | ⟨busy, -⟩ := openZone_cases n s
  · omega
  · rw [exec_keyHostZone, firstPoll, if_pos idle, refused, hostRun_of_idle]
    exact idle
  · exact absurd idle busy

/-! ### Which instruction a step runs (20 R72, 44 R181, 45 R201) -/

theorem step_of_request {s : State} (hc : configLegal s.cfg = true) (hr : requestPending s = true) :
    step s = exec (decodeRequest s.duart.rxd) s := by
  rw [step, if_pos hc, if_pos hr]

theorem dueKey_of_idle {s : State} {k : KeyPress} {later : List KeyPress} (idle : s.host.state = .idle)
    (hk : s.env.keys = k :: later) (ht : k.tick ≤ s.now) : dueKey s = some k := by
  unfold dueKey
  rw [hk]
  exact if_pos ⟨idle, ht⟩

theorem dropKey_of_keys {s : State} {k : KeyPress} {later : List KeyPress} (hk : s.env.keys = k :: later) :
    dropKey s = { s with env.keys := later } := by
  rw [dropKey, hk, List.tail_cons]

theorem step_of_key {s : State} {k : KeyPress} {i : Instr} (hc : configLegal s.cfg = true)
    (hr : requestPending s = false) (hp : resetPending s = false) (hk : dueKey s = some k)
    (hi : decodeKey k.key k.entry = .ok i) : step s = exec i (dropKey s) := by
  simp [step, hc, hr, hp, hk, hi]

theorem step_of_unassignedKey {s : State} {k : KeyPress} {e : DecodeError} (hc : configLegal s.cfg = true)
    (hr : requestPending s = false) (hp : resetPending s = false) (hk : dueKey s = some k)
    (he : decodeKey k.key k.entry = .error e) : step s = .next (dropKey s) := by
  simp [step, hc, hr, hp, hk, he]

theorem step_of_nothingDue {s : State} (hc : configLegal s.cfg = true) (hr : requestPending s = false)
    (hp : resetPending s = false) (hk : dueKey s = none) : step s = .next (advance s) := by
  simp [step, hc, hr, hp, hk]

/-! ### A tick with no reset and no key to come (00 R7) -/

/-- Neither a reset nor a key is to come. -/
def noEvents (s : State) : Prop := noReset s = true ∧ s.env.keys = []

theorem resetPending_of_noReset {s : State} (h : noReset s = true) : resetPending s = false := by
  simp only [noReset, List.isEmpty_iff] at h
  simp [resetPending, h]

theorem dueKey_of_noKeys {s : State} (h : s.env.keys = []) : dueKey s = none := by
  simp [dueKey, h]

theorem openKey_of_noKeys {s : State} (h : s.env.keys = []) : openKey s = s := by
  simp [openKey, dueKey_of_noKeys h]

theorem takeKey_of_noKeys {s : State} (h : s.env.keys = []) : takeKey s = s := by
  rw [takeKey, openKey_of_noKeys h]
  obtain ⟨idle, e⟩ | ⟨-, e⟩ := firstPoll_cases s s <;> rw [e]
  exact hostRun_of_idle idle

theorem noEvents_deviceTransmit {s : State} (h : noEvents s) : noEvents (deviceTransmit s) := by
  rw [deviceTransmit_eq]; exact h

theorem noEvents_hostTransmit {s : State} (h : noEvents s) : noEvents (hostTransmit s) := by
  rw [hostTransmit_eq]; exact h

theorem noEvents_deviceRun {s : State} (h : noEvents s) : noEvents (deviceRun s) := by
  rw [noEvents, noReset, (deviceRun_deviceOnly s).resets, (deviceRun_deviceOnly s).keys]; exact h

theorem noEvents_hostRun {s : State} (h : noEvents s) : noEvents (hostRun s) := by
  rw [noEvents, noReset, (hostRun_hostOnly s).resets, (hostRun_hostOnly s).keys]; exact h

/-- A turn in which no event can happen is the turn of its agents alone. -/
theorem runTurn_filter_isAgent (t : List Move) {s : State} (h : noEvents s) :
    runTurn (t.filter Move.isAgent) s = runTurn t s := by
  induction t generalizing s with
  | nil => rfl
  | cons m rest ih =>
    cases m with
    | duart => exact ih (noEvents_deviceTransmit h)
    | hostUart => exact ih (noEvents_hostTransmit h)
    | dev => exact ih (noEvents_deviceRun h)
    | host => exact ih (noEvents_hostRun h)
    | reset =>
      show runTurn (rest.filter Move.isAgent) s = runTurn rest (takeReset s)
      rw [takeReset_of_noReset h.1, ih h]
    | key =>
      show runTurn (rest.filter Move.isAgent) s = runTurn rest (if rest.contains .host then openKey s else takeKey s)
      rw [openKey_of_noKeys h.2, takeKey_of_noKeys h.2, ite_self, ih h]

theorem advance_of_noEvents {s : State} (h : noEvents s) : advance s = tick s :=
  (runTurn_filter_isAgent (nextTurn s) (s := elapse s) h).symm

/-- Settles O56: a clause for each of the outcomes of `step`, the last one by `advance_of_noEvents`. -/
theorem stepRunsTheDecodedInstruction : Obligations.StepRunsTheDecodedInstruction := by
  intro s hc
  refine ⟨?request, ?key, ?unassigned, ?tick, ?plainTick⟩
  case request =>
    intro i await full hi
    cases hi
    exact step_of_request hc (by simp [requestPending, await, full])
  case key =>
    intro i k later hr hp idle hk ht hi
    rw [← dropKey_of_keys hk]
    exact step_of_key hc hr hp (dueKey_of_idle idle hk ht) hi
  case unassigned =>
    intro e k later hr hp idle hk ht he
    rw [← dropKey_of_keys hk]
    exact step_of_unassignedKey hc hr hp (dueKey_of_idle idle hk ht) he
  case tick => exact step_of_nothingDue hc
  case plainTick =>
    intro hr hn hk
    rw [step_of_nothingDue hc hr (resetPending_of_noReset hn) (dueKey_of_noKeys hk), advance_of_noEvents ⟨hn, hk⟩]

/-! ### The state after reset (70 R260)

The invariants hold after reset under every configuration, not under the default one alone. -/

theorem tempResetTenths_bounds (c : Config) : -1525 ≤ c.tempResetTenths ∧ c.tempResetTenths ≤ 1525 := by
  have h := c.tempResetIdx.isLt
  unfold Config.tempResetTenths
  omega

/-- The twelve bits of `TEMP_TENTHS` hold every legal `TEMP_RESET_TENTHS` (10 R30, 00 R12). -/
theorem toInt_tempResetTenths (c : Config) : (BitVec.ofInt 12 c.tempResetTenths).toInt = c.tempResetTenths := by
  obtain ⟨hlo, hhi⟩ := tempResetTenths_bounds c
  rw [BitVec.toInt_ofInt]
  exact Int.bmod_eq_of_le (by omega) (by omega)

theorem zonesAgree_resetWith (c : Config) : zonesAgree (State.resetWith c) = true := rfl

theorem actuatorFollows_resetWith (c : Config) : actuatorFollows (State.resetWith c) = true := rfl

theorem hostLineHeld_resetWith (c : Config) : hostLineHeld (State.resetWith c) = true := rfl

theorem markInFlight_resetWith (c : Config) : markInFlight (State.resetWith c) = true := rfl

theorem decoderInPlace_resetWith (c : Config) : decoderInPlace (State.resetWith c) = true := by
  simp [decoderInPlace, State.resetWith, Decoder.reset]

theorem buffersInRange_resetWith (c : Config) : buffersInRange (State.resetWith c) = true := by
  simp [buffersInRange, State.resetWith, Decoder.reset, Device.reset, HostRegs.reset, DeviceUart.reset]

theorem readingsInRange_resetWith (c : Config) : readingsInRange (State.resetWith c) = true := by
  obtain ⟨hlo, hhi⟩ := tempResetTenths_bounds c
  simp [readingsInRange, State.resetWith, Decoder.reset, Device.reset, -BitVec.toInt_ofInt, toInt_tempResetTenths,
    hlo, hhi]

theorem configLegal_reference : configLegal Config.reference = true := by
  rw [configLegal_iff]
  decide

/-- Settles O53: the invariants as they hold under every configuration, and the fields of the reference one. -/
theorem resetMeetsEveryInvariant : Obligations.ResetMeetsEveryInvariant := by
  refine ⟨rfl, zonesAgree_resetWith _, actuatorFollows_resetWith _, hostLineHeld_resetWith _,
    markInFlight_resetWith _, decoderInPlace_resetWith _, buffersInRange_resetWith _, readingsInRange_resetWith _,
    configLegal_reference, ?fields, rfl, rfl, rfl⟩
  case fields =>
    have hbyte : 1 ≤ Config.reference.byteTimeUs := Nat.le_add_left 1 Config.freeByteTime
    exact ⟨rfl, rfl, rfl, rfl, rfl, rfl, rfl, rfl, rfl, rfl, rfl, rfl, rfl, rfl, rfl, rfl, rfl, rfl, rfl, rfl, rfl,
      rfl, rfl, rfl, rfl, rfl, hbyte, tempResetTenths_bounds Config.reference⟩

end Sys2Proof.Machine

/-! The properties that every step keeps: what has to be shown of one, and the invariants of the host's side, of the
zone, of the decoder, of the readings and of the buffers. -/

namespace Sys2Proof.Machine

/-! ### What makes a property an invariant of `step`

`step_cases` says that a step is a cycle, a reset, a key or a tick, and each of them is a run of the moves below. -/

/-- Time, the two transmitters, every move of the device, the host's program, a reset, a key and the fetch of a request
keep `P`. -/
structure KeptByMoves (P : State → Prop) : Prop where
  elapse : ∀ u, P u → P (elapse u)
  deviceTransmit : ∀ u, P u → P (deviceTransmit u)
  hostTransmit : ∀ u, P u → P (hostTransmit u)
  deviceMove : ∀ u, P u → P (deviceMove u)
  hostRun : ∀ u, P u → P (hostRun u)
  takeReset : ∀ u, P u → P (takeReset u)
  openKey : ∀ u, P u → P (openKey u)
  beginCycle : ∀ b u, u.dev.state = .awaitRequest → P u → P (beginCycle b u)

section KeptByMoves

variable {P : State → Prop}

theorem KeptByMoves.advance (k : KeptByMoves P) {s : State} (h : P s) : P (advance s) :=
  advance_induct k.elapse k.deviceTransmit k.hostTransmit k.deviceMove k.hostRun k.takeReset k.openKey h

theorem KeptByMoves.takeKey (k : KeptByMoves P) {s : State} (h : P s) : P (takeKey s) := by
  unfold Machine.takeKey
  obtain ⟨-, e⟩ | ⟨-, e⟩ := firstPoll_cases s (Machine.openKey s) <;> rw [e]
  · exact k.hostRun _ (k.openKey s h)
  · exact k.openKey s h

theorem KeptByMoves.deviceCycle (k : KeptByMoves P) (b : Byte) {s : State} (await : s.dev.state = .awaitRequest)
    (h : P s) : P (deviceCycle b s) :=
  runToAwait_induct (fun u hu _ => k.advance (k.takeKey (k.takeReset u hu))) _
    (deviceRun_induct k.deviceMove (k.beginCycle b s await h))

/-- A property that every move keeps is an invariant of the machine. -/
theorem KeptByMoves.step (k : KeptByMoves P) {s t : State} (h : P s) (hst : step s = .next t) : P t := by
  obtain ⟨-, ⟨await, -, rfl⟩ | ⟨-, -, rfl⟩ | ⟨-, -, -, rfl⟩ | ⟨-, -, -, rfl⟩⟩ := step_cases hst
  · exact k.deviceCycle _ await h
  · exact k.takeReset s h
  · exact k.takeKey h
  · exact k.advance h

theorem KeptByMoves.and {Q : State → Prop} (k : KeptByMoves P) (l : KeptByMoves Q) :
    KeptByMoves fun u => P u ∧ Q u where
  elapse u h := ⟨k.elapse u h.1, l.elapse u h.2⟩
  deviceTransmit u h := ⟨k.deviceTransmit u h.1, l.deviceTransmit u h.2⟩
  hostTransmit u h := ⟨k.hostTransmit u h.1, l.hostTransmit u h.2⟩
  deviceMove u h := ⟨k.deviceMove u h.1, l.deviceMove u h.2⟩
  hostRun u h := ⟨k.hostRun u h.1, l.hostRun u h.2⟩
  takeReset u h := ⟨k.takeReset u h.1, l.takeReset u h.2⟩
  openKey u h := ⟨k.openKey u h.1, l.openKey u h.2⟩
  beginCycle b u await h := ⟨k.beginCycle b u await h.1, l.beginCycle b u await h.2⟩

/-- A property of the host's side (the host, the mark of its flight, the outputs) is kept by every move if those that
touch this side keep it. -/
theorem keptByMoves_of_hostSide
    (frame : ∀ {u v : State}, P u → v.cfg = u.cfg → v.host = u.host → v.line = u.line → v.out = u.out → P v)
    (deviceTransmit : ∀ u, P u → P (deviceTransmit u)) (hostTransmit : ∀ u, P u → P (hostTransmit u))
    (hostRun : ∀ u, P u → P (hostRun u)) (resetNode : ∀ n u, P u → P (resetNode n u))
    (openCommand : ∀ i u, P u → P (openCommand i u)) : KeptByMoves P where
  elapse _ h := frame h rfl rfl rfl rfl
  deviceTransmit := deviceTransmit
  hostTransmit := hostTransmit
  deviceMove u h :=
    have d := deviceMove_deviceOnly u
    frame h d.cfg d.host d.line d.out
  hostRun := hostRun
  takeReset u h := by
    obtain e | ⟨r, rest, -, -, e⟩ := takeReset_cases u <;> rw [e]
    · exact h
    · exact resetNode r.node _ (frame h rfl rfl rfl rfl)
  openKey u h := by
    have dropped : P (dropKey u) := frame h rfl rfl rfl rfl
    obtain ⟨-, e⟩ | ⟨k, -, e | ⟨i, -, e⟩⟩ := openKey_cases u <;> rw [e]
    · exact h
    · exact dropped
    · exact openCommand i _ dropped
  beginCycle _ _ _ h := frame h rfl rfl rfl rfl

/-- A property of the decoder and the controller, the tick mark aside, is kept by every move if the device program, the
device's power-up and the fetch of a request keep it. -/
theorem keptByMoves_of_deviceSide
    (frame : ∀ {u v : State}, P u → v.cfg = u.cfg → v.dec = u.dec →
      v.dev = { u.dev with yielded := v.dev.yielded } → P v)
    (deviceMove : ∀ u, P u → P (deviceMove u)) (deviceReset : ∀ u, P u → P (deviceReset u))
    (beginCycle : ∀ b u, u.dev.state = .awaitRequest → P u → P (beginCycle b u)) : KeptByMoves P where
  elapse _ h := frame h rfl rfl rfl
  deviceTransmit u h := frame h (by simp) (by simp) (by simp)
  hostTransmit u h := frame h (by simp) (by simp) (by simp)
  deviceMove := deviceMove
  hostRun u h := frame h (by simp) (by simp) (by simp)
  takeReset u h := by
    obtain e | ⟨r, rest, -, -, e⟩ := takeReset_cases u <;> rw [e]
    · exact h
    · cases r.node
      · exact deviceReset _ (frame h rfl rfl rfl)
      · exact frame h rfl rfl rfl
  openKey u h := frame h (by simp) (by simp) (by simp)
  beginCycle := beginCycle

end KeptByMoves

/-! ### The moves of the host's program, one relation for its steps and commands -/

/-- One move of the host's program: `v` is what one of the seven steps, or the beginning of a command, makes of `u` when
it does anything (45 R200 to R213). -/
inductive HostMove (u : State) : State → Prop where
  | begun (req : Byte) (disp : Bool) :
      HostMove u { u with host := { u.host with req := req, disp := disp, state := .opening } }
  | refused : HostMove u { u with host := { u.host with result := .invalidZoneInput } }
  | opened : HostMove u { u with
      host := { u.host with lineOpen := true, hrxdQ := [], state := .waitWr, timer := 0 }
      env := { u.env with port := u.env.port.tail } }
  | unavailable : HostMove u { u with
      host := { u.host with result := .portUnavailable, state := .idle }
      env := { u.env with port := u.env.port.tail } }
  | polled (h : u.host.timer < u.cfg.hostDeadlineUs) : HostMove u { u with
      host := { u.host with timer := u.host.timer + 1 }, env := { u.env with wrOk := u.env.wrOk.tail } }
  | ready : HostMove u { u with
      host := { u.host with state := .write }, env := { u.env with wrOk := u.env.wrOk.tail } }
  | written : HostMove u { u with
      host := { u.host with
        htxd := u.host.req, htxReady := false, htxRemain := u.cfg.byteTimeUs, state := .blind, timer := 0 }
      line := { h2dLost := false } }
  | counted (h : u.host.timer < max u.cfg.hostDeadlineUs u.cfg.blindWaitUs) :
      HostMove u { u with host := { u.host with timer := u.host.timer + 1 } }
  | blindOver : HostMove u { u with host := { u.host with state := .waitRd, timer := 0 } }
  | arrived : HostMove u { u with host := { u.host with state := .read } }
  | read : HostMove u { hostRead u with host.state := .release }
  | aborted (e : HostResult) : HostMove u (abortTransaction e u)
  | released : HostMove u { u with
      host := { u.host with lineOpen := false, hrxdQ := [], result := .done, state := .idle }
      out := { log := u.out.log ++ [logLine (askClock (releaseLine u)).1 (payload u)]
               display := if u.host.disp then u.out.display ++ [payload u] else u.out.display }
      env := { u.env with clock := u.env.clock.tail } }

section HostMove

variable {P : State → Prop} (move : ∀ {u v : State}, HostMove u v → P u → P v) {s : State}
include move

theorem stepOpen_keeps (h : P s) : P (stepOpen s) := by
  by_cases hs : s.host.state = .opening
  · obtain e | e := stepOpen_cases hs <;> rw [e]
    · exact move .opened h
    · exact move .unavailable h
  · rwa [stepOpen_other hs]

theorem stepWaitWr_keeps (h : P s) : P (stepWaitWr s) := by
  by_cases hs : s.host.state = .waitWr
  · obtain ⟨-, -, -, e⟩ | ⟨ht, e⟩ | ⟨-, e⟩ := stepWaitWr_cases hs <;> rw [e]
    · exact move .ready h
    · exact move (.polled ht) h
    · exact move (.aborted _) h
  · rwa [stepWaitWr_other hs]

theorem stepWrite_keeps (h : P s) : P (stepWrite s) := by
  by_cases hs : s.host.state = .write
  · rw [stepWrite_eq hs]; exact move .written h
  · rwa [stepWrite_other hs]

theorem stepBlind_keeps (h : P s) : P (stepBlind s) := by
  by_cases hs : s.host.state = .blind
  · obtain ⟨ht, e⟩ | ⟨-, e⟩ := stepBlind_cases hs <;> rw [e]
    · exact move (.counted (lt_max_of_lt_right ht)) h
    · exact move .blindOver h
  · rwa [stepBlind_other hs]

theorem stepWaitRd_keeps (h : P s) : P (stepWaitRd s) := by
  by_cases hs : s.host.state = .waitRd
  · obtain ⟨-, -, e⟩ | ⟨ht, -, e⟩ | ⟨-, e⟩ := stepWaitRd_cases hs <;> rw [e]
    · exact move .arrived h
    · exact move (.counted (lt_max_of_lt_left ht)) h
    · exact move (.aborted _) h
  · rwa [stepWaitRd_other hs]

theorem stepRead_keeps (h : P s) : P (stepRead s) := by
  by_cases hs : s.host.state = .read
  · rw [stepRead_eq hs]; exact move .read h
  · rwa [stepRead_other hs]

theorem stepRelease_keeps (h : P s) : P (stepRelease s) := by
  by_cases hs : s.host.state = .release
  · rw [stepRelease_eq hs]; exact move .released h
  · rwa [stepRelease_other hs]

/-- What every move of the host's program keeps, the program keeps at a tick. -/
theorem hostRun_keeps (h : P s) : P (hostRun s) :=
  hostRun_induct (P := P) (fun _ => stepOpen_keeps move) (fun _ => stepWaitWr_keeps move)
    (fun _ => stepWrite_keeps move) (fun _ => stepBlind_keeps move) (fun _ => stepWaitRd_keeps move)
    (fun _ => stepRead_keeps move) (fun _ => stepRelease_keeps move) h

/-- What every move of the host's program keeps, a menu command keeps. -/
theorem openCommand_keeps (i : Instr) (h : P s) : P (openCommand i s) := by
  obtain e | e | ⟨-, req, disp, e⟩ := openCommand_cases i s <;> rw [e]
  · exact h
  · exact move .refused h
  · exact stepOpen_keeps move (move (.begun req disp) h)

end HostMove

/-! ### What a transmitter leaves on the host's side -/

theorem deviceTransmit_host (s : State) :
    (deviceTransmit s).host = { s.host with hrxdQ := (deviceTransmit s).host.hrxdQ } := by
  rw [deviceTransmit_eq]

/-- A tick of the device's transmitter leaves the host's queue alone, or puts one byte into an open line's queue that
has room (43 R171). -/
theorem deviceTransmit_queue (s : State) :
    (deviceTransmit s).host.hrxdQ = s.host.hrxdQ
    ∨ (s.host.lineOpen = true ∧ s.host.hrxdQ.length < s.cfg.hostFifoDepth
      ∧ ∃ c, (deviceTransmit s).host.hrxdQ = s.host.hrxdQ ++ [c]) := by
  obtain ⟨-, e⟩ | ⟨-, -, e⟩ | ⟨-, -, e⟩ := deviceTransmit_cases s <;> rw [e]
  · exact .inl rfl
  · exact deliverD2H_queue _ (txDone s)
  · exact .inl rfl

theorem hostTransmit_host (s : State) :
    (hostTransmit s).host = { s.host with
      htxReady := (hostTransmit s).host.htxReady, htxRemain := (hostTransmit s).host.htxRemain } := by
  rw [hostTransmit_eq]

/-! ### The log (10 R50, 45 R212) -/

theorem log_prefix_of_hostMove {u v : State} (m : HostMove u v) : u.out.log <+: v.out.log := by
  cases m
  case released => exact List.prefix_append _ _
  all_goals exact List.prefix_refl _

/-- The log of a fixed state stays the beginning of the log: of all moves only the end of a transaction writes it. -/
theorem keptByMoves_log_prefix (log : List (List Byte)) : KeptByMoves fun u => log <+: u.out.log := by
  have move : ∀ {u v : State}, HostMove u v → log <+: u.out.log → log <+: v.out.log :=
    fun m h => h.trans (log_prefix_of_hostMove m)
  refine keptByMoves_of_hostSide ?frame ?_ ?_ (fun _ => hostRun_keeps move) ?reset fun i _ => openCommand_keeps move i
  case frame => intro u v h _ _ _ e; rwa [e]
  case reset => intro n u h; cases n <;> exact h
  all_goals intro u h; simpa using h

/-- Settles O45, with the log before the step as the beginning that every move keeps. -/
theorem logIsOnlyAppendedTo : Obligations.LogIsOnlyAppendedTo := by
  intro s t hst
  exact (keptByMoves_log_prefix s.out.log).step (List.prefix_refl _) hst

/-! ### The line and the mark of a lost flight (10 R43, R46; 45 R211) -/

theorem hostLineHeld_iff (s : State) :
    hostLineHeld s = true ↔
      (s.host.state = .idle ∧ s.host.lineOpen = false ∧ s.host.hrxdQ = [])
      ∨ ((s.host.state = .waitWr ∨ s.host.state = .blind ∨ s.host.state = .waitRd) ∧ s.host.lineOpen = true) := by
  simp [hostLineHeld, and_assoc, or_assoc]

theorem hostLineHeld_of_timed {s : State}
    (h : s.host.state = .waitWr ∨ s.host.state = .blind ∨ s.host.state = .waitRd) (ho : s.host.lineOpen = true) :
    hostLineHeld s = true := (hostLineHeld_iff s).2 (.inr ⟨h, ho⟩)

theorem hostLineHeld_of_closed {s : State} (h : s.host.state = .idle) (hc : s.host.lineOpen = false)
    (hq : s.host.hrxdQ = []) : hostLineHeld s = true := (hostLineHeld_iff s).2 (.inl ⟨h, hc, hq⟩)

theorem hostLineHeld_abortTransaction (e : HostResult) (s : State) : hostLineHeld (abortTransaction e s) = true :=
  hostLineHeld_of_closed rfl rfl rfl

/-- A host that has something to read reads it and releases the line at the same tick (45 R208, R210). -/
theorem hostLineHeld_stepRead {s : State} (h : s.host.state = .read) :
    hostLineHeld (stepRelease (stepRead s)) = true := by
  rw [stepRead_eq h, stepRelease_eq rfl]
  exact hostLineHeld_of_closed rfl rfl rfl

theorem hostLineHeld_stepWaitRd {s : State} (h : s.host.state = .waitRd) (ho : s.host.lineOpen = true) :
    hostLineHeld (stepRelease (stepRead (stepWaitRd s))) = true := by
  obtain ⟨-, -, e⟩ | ⟨-, -, e⟩ | ⟨-, e⟩ := stepWaitRd_cases h <;> rw [e]
  · exact hostLineHeld_stepRead rfl
  · rw [stepRead_other (by simp [h]), stepRelease_other (by simp [h])]
    exact hostLineHeld_of_timed (.inr (.inr h)) ho
  · rw [stepRead_of_idle rfl]
    exact hostLineHeld_abortTransaction _ s

theorem hostLineHeld_stepBlind {s : State} (h : s.host.state = .blind) (ho : s.host.lineOpen = true) :
    hostLineHeld (stepRelease (stepRead (stepWaitRd (stepBlind s)))) = true := by
  obtain ⟨-, e⟩ | ⟨-, e⟩ := stepBlind_cases h <;> rw [e]
  · rw [stepWaitRd_other (by simp [h]), stepRead_other (by simp [h]), stepRelease_other (by simp [h])]
    exact hostLineHeld_of_timed (.inr (.inl h)) ho
  · exact hostLineHeld_stepWaitRd rfl ho

theorem hostLineHeld_stepWaitWr {s : State} (h : s.host.state = .waitWr) (ho : s.host.lineOpen = true) :
    hostLineHeld (stepRelease (stepRead (stepWaitRd (stepBlind (stepWrite (stepWaitWr s)))))) = true := by
  obtain ⟨-, -, -, e⟩ | ⟨-, e⟩ | ⟨-, e⟩ := stepWaitWr_cases h <;> rw [e]
  · rw [stepWrite_eq rfl]
    exact hostLineHeld_stepBlind rfl ho
  · rw [stepWrite_other (by simp [h]), stepBlind_other (by simp [h]), stepWaitRd_other (by simp [h]),
      stepRead_other (by simp [h]), stepRelease_other (by simp [h])]
    exact hostLineHeld_of_timed (.inl h) ho
  · rw [stepWrite_other (by simp), stepBlind_other (by simp), stepWaitRd_other (by simp), stepRead_of_idle rfl]
    exact hostLineHeld_abortTransaction _ s

/-- A tick of the host's program runs through the untimed states, and so ends idle or in a timed phase again. -/
theorem hostLineHeld_hostRun {s : State} (h : hostLineHeld s = true) : hostLineHeld (hostRun s) = true := by
  obtain ⟨idle, -, -⟩ | ⟨hs | hs | hs, ho⟩ := (hostLineHeld_iff s).1 h
  · rwa [hostRun_of_idle idle]
  all_goals unfold hostRun; rw [stepOpen_other (by simp [hs])]
  · exact hostLineHeld_stepWaitWr hs ho
  · rw [stepWaitWr_other (by simp [hs]), stepWrite_other (by simp [hs])]
    exact hostLineHeld_stepBlind hs ho
  · rw [stepWaitWr_other (by simp [hs]), stepWrite_other (by simp [hs]), stepBlind_other (by simp [hs])]
    exact hostLineHeld_stepWaitRd hs ho

theorem hostLineHeld_openCommand (i : Instr) {s : State} (h : hostLineHeld s = true) :
    hostLineHeld (openCommand i s) = true := by
  obtain e | e | ⟨idle, req, disp, e⟩ := openCommand_cases i s <;> rw [e]
  · exact h
  · exact h
  · obtain e | e := openTransaction_cases req disp s <;> rw [e]
    · exact hostLineHeld_of_timed (.inl rfl) rfl
    · obtain ⟨-, hc, hq⟩ | ⟨busy, -⟩ := (hostLineHeld_iff s).1 h
      · exact hostLineHeld_of_closed rfl hc hq
      · simp [idle] at busy

/-- A delivery to the host changes the queue of an open line only. -/
theorem hostLineHeld_deviceTransmit {s : State} (h : hostLineHeld s = true) :
    hostLineHeld (deviceTransmit s) = true := by
  have same := deviceTransmit_host s
  obtain e | ⟨ho, -, -⟩ := deviceTransmit_queue s
  · rw [e] at same
    simpa only [hostLineHeld_iff, same] using h
  · obtain ⟨-, hc, -⟩ | ⟨hs, -⟩ := (hostLineHeld_iff s).1 h
    · simp [ho] at hc
    · exact hostLineHeld_of_timed (by rwa [same]) (by rwa [same])

theorem hostLineHeld_hostTransmit {s : State} (h : hostLineHeld s = true) :
    hostLineHeld (hostTransmit s) = true := by
  rw [hostLineHeld_iff, hostTransmit_host]
  exact (hostLineHeld_iff s).1 h

theorem keptByMoves_hostLineHeld : KeptByMoves fun u => hostLineHeld u = true := by
  refine keptByMoves_of_hostSide ?frame (fun _ => hostLineHeld_deviceTransmit) (fun _ => hostLineHeld_hostTransmit)
    (fun _ => hostLineHeld_hostRun) ?reset fun i _ => hostLineHeld_openCommand i
  case frame => intro u v h _ e _ _; simpa only [hostLineHeld_iff, e] using h
  case reset =>
    intro n u h
    cases n
    · exact h
    · exact hostLineHeld_of_closed rfl rfl rfl

theorem markInFlight_iff (s : State) : markInFlight s = true ↔ (s.line.h2dLost = true → s.host.htxReady = false) := by
  cases h : s.line.h2dLost <;> simp [markInFlight, h]

/-- Only the write of a byte touches flight and mark, and it takes the mark away. -/
theorem markInFlight_of_hostMove {u v : State} (m : HostMove u v) (h : markInFlight u = true) :
    markInFlight v = true := by
  cases m
  case written => rfl
  all_goals exact h

theorem markInFlight_hostTransmit {s : State} (h : markInFlight s = true) : markInFlight (hostTransmit s) = true := by
  obtain ⟨-, e⟩ | ⟨-, -, -, e⟩ | ⟨-, -, -, e⟩ | ⟨-, -, e⟩ := hostTransmit_cases s <;> rw [e]
  · exact h
  · rfl
  · rw [deliverH2D_eq]; rfl
  · exact h

theorem keptByMoves_markInFlight : KeptByMoves fun u => markInFlight u = true := by
  refine keptByMoves_of_hostSide ?frame ?device (fun _ => markInFlight_hostTransmit)
    (fun _ => hostRun_keeps markInFlight_of_hostMove) ?reset fun i _ => openCommand_keeps markInFlight_of_hostMove i
  case frame => intro u v h _ eh el _; simpa only [markInFlight_iff, eh, el] using h
  case device =>
    intro u h
    rw [markInFlight_iff, deviceTransmit_line, deviceTransmit_host]
    exact (markInFlight_iff u).1 h
  case reset =>
    intro n u _
    cases n
    · simp [markInFlight, resetNode]
    · rfl

/-- Settles O49: the two invariants of the line. -/
theorem stepKeepsTheLineHeld : Obligations.StepKeepsTheLineHeld := fun _ _ hst =>
  ⟨fun h => keptByMoves_hostLineHeld.step h hst, fun h => keptByMoves_markInFlight.step h hst⟩

end Sys2Proof.Machine

/-! Invariants of the device's side: the zone and its mask, the decoder's place, and the readings. -/

namespace Sys2Proof.Machine

/-! ### What each part of the controller's program leaves in the decoder and the controller -/

@[simp] theorem presentBit_dec (i : Nat) (s : State) : (presentBit i s).dec = s.dec := by simp [presentBit]
@[simp] theorem presentBit_dev (i : Nat) (s : State) :
    (presentBit i s).dev = { s.dev with pos := .clkHigh, zIdx := i, wait := s.cfg.clkPulseUs } := by simp [presentBit]
@[simp] theorem clockFall_dec (s : State) : (clockFall s).dec = s.dec := by simp [clockFall]
@[simp] theorem clockFall_dev (s : State) :
    (clockFall s).dev = { s.dev with pos := .clkLow, wait := s.cfg.clkPulseUs } := by simp [clockFall]
@[simp] theorem latchRise_dec (s : State) : (latchRise s).dec = s.dec := by simp [latchRise]
@[simp] theorem latchRise_dev (s : State) :
    (latchRise s).dev = { s.dev with pos := .latch, wait := s.cfg.latchPulseUs } := by simp [latchRise]
@[simp] theorem takeResult_dec (s : State) : (takeResult s).dec = { s.dec with state := .idle } := by
  simp [takeResult]
theorem takeResult_dev (s : State) :
    (takeResult s).dev = { s.dev with moist := (takeResult s).dev.moist, pos := .adc, wait := s.cfg.adcTimeUs } := by
  unfold takeResult; rw [sampleMoisture_eq]
@[simp] theorem beginCycle_dec (b : Byte) (s : State) :
    (beginCycle b s).dec = { s.dec with state := .start, frame := 0, bitIdx := 0, swDrive := true, startCnt := 0 } :=
  rfl
@[simp] theorem beginCycle_dev (b : Byte) (s : State) :
    (beginCycle b s).dev = { s.dev with req := b, state := .decodeActuate, pos := .read, yielded := false } := rfl

/-- The decoder's moves leave the controller alone but for its tick mark. -/
theorem decoderMove_dev (s : State) :
    (decoderMove s).dev = { s.dev with yielded := (decoderMove s).dev.yielded } := by
  have h := decoderMove_decoderOnly s
  rw [DecoderOnly] at h
  exact congrArg State.dev h

theorem nextZoneBit_dec (s : State) : (nextZoneBit s).dec = s.dec := by
  obtain ⟨-, e⟩ | ⟨i, -, e⟩ := nextZoneBit_cases s <;> rw [e]
  · exact latchRise_dec s
  · exact presentBit_dec i s

theorem nextZoneBit_dev (s : State) :
    (nextZoneBit s).dev = { s.dev with
      pos := (nextZoneBit s).dev.pos, zIdx := (nextZoneBit s).dev.zIdx, wait := (nextZoneBit s).dev.wait } := by
  obtain ⟨-, e⟩ | ⟨i, -, e⟩ := nextZoneBit_cases s <;> rw [e]
  · rw [latchRise_dev]
  · rw [presentBit_dev]

/-- The end of `write_zone` converts and formats as a cycle without a zone does (42 R150, 44 R186). -/
theorem latchFall_dev (s : State) : (latchFall s).dev = (convertAndRespond s).dev := by
  simp [latchFall, convertAndRespond]

theorem latchFall_dec (s : State) : (latchFall s).dec = s.dec := by simp [latchFall, convertAndRespond]

/-- What a property needs from each move of the decoder: the start signal, a measurement that counts below the bound,
ends the read, or goes on to the next one or to the next bit, and the check. -/
theorem decoderMove_keeps {P : State → Prop} {s : State} (read : P (startRead s)) (signal : P (startSignal s))
    (count : s.dec.tmrCnt < s.cfg.timerBoundUs → P (measureCount s)) (fail : ∀ r, P (finishRead r s))
    (measure : ∀ d, P (measureStart d s)) (bit : P (nextBit s)) (shift : ∀ d, P (nextBit (shiftBit d s)))
    (check : P (checkFrame s)) (h : P s) : P (decoderMove s) := by
  have measured : ∀ {level : Level} {r : DecResult} {go : Nat → State → State}, (∀ d, P (go d s)) →
      P (onMeasure (measurePoll level s) r go s) := by
    intro level r go hgo
    obtain ⟨poll, e⟩ | ⟨d, -, e⟩ | ⟨-, e⟩ := onMeasure_cases (measurePoll level s) r go s <;> rw [e]
    · exact count (measurePoll_none poll).1
    · exact hgo d
    · exact fail r
  unfold decoderMove
  split
  · exact read
  · exact signal
  · exact measured fun _ => measure _
  · exact measured fun _ => measure _
  · exact measured fun _ => bit
  · exact measured fun _ => measure _
  · exact measured shift
  · exact check
  · exact h

section DeviceMove

variable {P : State → Prop} {s : State}

/-- What a property of the device's side needs from each move of the device program: every position of the cycle with
what it does there. -/
theorem deviceMove_keeps
    (frame : ∀ {u : State} (w : Nat) (y : Bool), P u → P { u with dev.wait := w, dev.yielded := y })
    (send : s.dev.state = .respond → P (sendMove s))
    (result : s.dev.state = .decodeActuate → s.dev.pos = .read → s.dec.state = .done → P (takeResult s))
    (decode : s.dev.state = .decodeActuate → s.dev.pos = .read → s.dec.state ≠ .done → P (decoderMove s))
    (zone : s.dev.state = .decodeActuate → s.dev.pos = .adc → P (zoneUpdate s))
    (fall : s.dev.state = .decodeActuate → s.dev.pos = .clkHigh → P (clockFall s))
    (bit : s.dev.state = .decodeActuate → s.dev.pos = .clkLow → P (nextZoneBit s))
    (latch : s.dev.state = .decodeActuate → s.dev.pos = .latch → P (latchFall s))
    (h : P s) : P (deviceMove s) := by
  have wait : ∀ {k : State → State}, P (k s) → P (waiting k s) := by
    intro k hk
    obtain ⟨-, e⟩ | ⟨-, e⟩ := waiting_cases k s <;> rw [e]
    · exact hk
    · exact frame (u := s) (s.dev.wait - 1) true h
  obtain ⟨-, e⟩ | ⟨-, hs, e⟩
    | ⟨-, hs, ⟨hp, hd, e⟩ | ⟨hp, hd, e⟩ | ⟨hp, e⟩ | ⟨hp, e⟩ | ⟨hp, e⟩ | ⟨hp, e⟩⟩ := deviceMove_cases s <;> rw [e]
  · exact h
  · exact send hs
  · exact result hs hp hd
  · exact decode hs hp hd
  · exact wait (zone hs hp)
  · exact wait (fall hs hp)
  · exact wait (bit hs hp)
  · exact wait (latch hs hp)

end DeviceMove

/-! ### The zone and its mask (10 R34, R35) -/

/-- The zone registers agree: a predicate of the two alone. -/
theorem zonesAgree_congr {u v : State} (hz : v.dev.curZone = u.dev.curZone) (hm : v.dev.zmask = u.dev.zmask)
    (h : zonesAgree u = true) : zonesAgree v = true := by
  simpa only [zonesAgree, hz, hm] using h

/-- A zone digit `b` is remembered with the mask `1 << (b - 0x31)` (44 R185, 30 R89). -/
theorem zonesAgree_of_digit {s : State} (hb : isZoneDigit s.dev.curZone = true)
    (hm : s.dev.zmask = zoneMask (zoneNumber s.dev.curZone)) : zonesAgree s = true := by
  have shift : zoneNumber s.dev.curZone - 1 = s.dev.curZone.toNat - 0x31 := by unfold zoneNumber; omega
  simp [zonesAgree, hb, hm, zoneMask, shift]

theorem zonesAgree_zoneUpdate {s : State} (h : zonesAgree s = true) : zonesAgree (zoneUpdate s) = true := by
  obtain ⟨digit, e⟩ | ⟨-, e⟩ := zoneUpdate_cases s <;> rw [e]
  · exact zonesAgree_of_digit (by simpa using digit) (by simp)
  · exact zonesAgree_congr rfl rfl h

/-- Of the moves of the device only the zone update writes the two registers. -/
theorem zonesAgree_deviceMove {s : State} (h : zonesAgree s = true) : zonesAgree (deviceMove s) = true := by
  refine deviceMove_keeps (P := fun u => zonesAgree u = true) ?frame ?send ?result ?decode
    (fun _ _ => zonesAgree_zoneUpdate h) ?fall ?bit ?latch h
  case frame => intro u w y hu; exact zonesAgree_congr rfl rfl hu
  case send =>
    intro _
    obtain ⟨-, -, e⟩ | ⟨-, -, e⟩ | ⟨-, e⟩ := sendMove_cases s <;> rw [e] <;> exact zonesAgree_congr rfl rfl h
  case result => intro _ _ _; exact zonesAgree_congr (by rw [takeResult_dev]) (by rw [takeResult_dev]) h
  case decode => intro _ _ _; exact zonesAgree_congr (by rw [decoderMove_dev]) (by rw [decoderMove_dev]) h
  case fall => intro _ _; exact zonesAgree_congr (by simp) (by simp) h
  case bit => intro _ _; exact zonesAgree_congr (by rw [nextZoneBit_dev]) (by rw [nextZoneBit_dev]) h
  case latch => intro _ _; exact zonesAgree_congr (by rw [latchFall_dev]; rfl) (by rw [latchFall_dev]; rfl) h

theorem keptByMoves_zonesAgree : KeptByMoves fun u => zonesAgree u = true := by
  refine keptByMoves_of_deviceSide ?frame (fun _ => zonesAgree_deviceMove) ?reset ?begin
  case frame => intro u v h _ _ e; exact zonesAgree_congr (by rw [e]) (by rw [e]) h
  case reset => intro u _; rfl
  case begin => intro b u _ h; exact zonesAgree_congr rfl rfl h

/-- Settles O46. -/
theorem stepKeepsZonesAgreeing : Obligations.StepKeepsZonesAgreeing := fun _ _ h hst =>
  keptByMoves_zonesAgree.step h hst

/-! ### The decoder's place (10 R22, R25, R27; 41 R120) -/

/-- The bits counted fit the decoder's state: none before the first bit, fewer than `N_BITS` while one is measured, all
of them at the check. -/
def BitsFit (c : Config) (d : Decoder) : Prop :=
  d.bitIdx ≤ c.nBits ∧
    match d.state with
    | .start | .waitResp | .ackLow | .ackHigh => d.bitIdx = 0
    | .bitLow | .bitHigh => d.bitIdx < c.nBits
    | .check => d.bitIdx = c.nBits
    | .idle | .done => True

theorem decoderInPlace_iff (s : State) :
    decoderInPlace s = true ↔
      (s.dec.swDrive = true → s.dec.state = .start)
      ∧ (s.dec.state ≠ .idle → s.dev.state = .decodeActuate ∧ s.dev.pos = .read)
      ∧ BitsFit s.cfg s.dec := by
  cases h : s.dec.state <;> simp [decoderInPlace, BitsFit, h, and_assoc]

/-- Inside a read the place is right; pin and bit count are left to show. -/
theorem decoderInPlace_of_reading {u v : State} (hs : u.dev.state = .decodeActuate) (hp : u.dev.pos = .read)
    (hv : ∃ y, v.dev = { u.dev with yielded := y })
    (pin : v.dec.swDrive = true → v.dec.state = .start) (bits : BitsFit v.cfg v.dec) : decoderInPlace v = true := by
  obtain ⟨y, hv⟩ := hv
  exact (decoderInPlace_iff v).2 ⟨pin, fun _ => by simp [hv, hs, hp], bits⟩

/-- An idle decoder is in place wherever the controller stands. -/
theorem decoderInPlace_of_idle {v : State} (idle : v.dec.state = .idle) (pin : v.dec.swDrive = false)
    (bits : v.dec.bitIdx ≤ v.cfg.nBits) : decoderInPlace v = true :=
  (decoderInPlace_iff v).2 ⟨by simp [pin], fun h => absurd idle h, bits, by rw [idle]; trivial⟩

/-- The decoder's place in `decoderInPlace` depends on these registers alone. -/
theorem decoderInPlace_congr {u v : State} (h : decoderInPlace u = true) (hc : v.cfg = u.cfg)
    (hd : v.dec.state = u.dec.state ∧ v.dec.swDrive = u.dec.swDrive ∧ v.dec.bitIdx = u.dec.bitIdx)
    (hv : v.dev.state = u.dev.state ∧ v.dev.pos = u.dev.pos) : decoderInPlace v = true := by
  obtain ⟨hstate, hpin, hbits⟩ := hd
  obtain ⟨hs, hp⟩ := hv
  simpa only [decoderInPlace, hc, hstate, hpin, hbits, hs, hp] using h

/-- The wire is driven in `D_START` only. -/
theorem swDrive_of_inPlace {s : State} (h : decoderInPlace s = true) (hd : s.dec.state ≠ .start) :
    s.dec.swDrive = false := by
  obtain ⟨pin, -⟩ := (decoderInPlace_iff s).1 h
  exact Bool.eq_false_iff.2 fun driven => hd (pin driven)

theorem bitsFit_of_inPlace {s : State} (h : decoderInPlace s = true) : BitsFit s.cfg s.dec :=
  ((decoderInPlace_iff s).1 h).2.2

theorem bitIdx_le_of_inPlace {s : State} (h : decoderInPlace s = true) : s.dec.bitIdx ≤ s.cfg.nBits :=
  (bitsFit_of_inPlace h).1

/-- Outside a read the decoder is idle, and a move that leaves it alone keeps it in place. -/
theorem decoderInPlace_of_outside {u v : State} (h : decoderInPlace u = true)
    (out : ¬ (u.dev.state = .decodeActuate ∧ u.dev.pos = .read)) (hc : v.cfg = u.cfg) (hd : v.dec = u.dec) :
    decoderInPlace v = true := by
  obtain ⟨-, place, bits, -⟩ := (decoderInPlace_iff u).1 h
  have idle : u.dec.state = .idle := by
    by_contra busy
    exact out (place busy)
  refine decoderInPlace_of_idle (by rwa [hd]) ?_ (by rwa [hc, hd])
  rw [hd]
  exact swDrive_of_inPlace h (by simp [idle])

section Reading

variable {s : State} (hs : s.dev.state = .decodeActuate) (hp : s.dev.pos = .read)
include hs hp

/-- A read that ends releases the wire (41 R120). -/
theorem decoderInPlace_finishRead (r : DecResult) (bits : s.dec.bitIdx ≤ s.cfg.nBits) :
    decoderInPlace (finishRead r s) = true :=
  decoderInPlace_of_reading hs hp ⟨_, rfl⟩ (by simp) ⟨bits, trivial⟩

/-- A measurement is called with the wire released and the bits that its state expects. -/
theorem decoderInPlace_measureStart {d : DecState} (pin : s.dec.swDrive = false)
    (bits : BitsFit s.cfg { s.dec with state := d }) : decoderInPlace (measureStart d s) = true :=
  decoderInPlace_of_reading hs hp ⟨_, rfl⟩ (by simp [pin]) bits

theorem decoderInPlace_startSignal (h : decoderInPlace s = true) (hd : s.dec.state = .start) :
    decoderInPlace (startSignal s) = true := by
  obtain ⟨-, e⟩ | ⟨-, e⟩ := startSignal_cases s <;> rw [e]
  · exact decoderInPlace_congr h rfl ⟨rfl, rfl, rfl⟩ ⟨rfl, rfl⟩
  · have bits : s.dec.bitIdx = 0 := by simpa [BitsFit, hd] using (bitsFit_of_inPlace h).2
    exact decoderInPlace_measureStart (s := { s with dec.swDrive := false }) hs hp rfl (by simp [BitsFit, bits])

/-- The head of the loop over the bits goes to the next bit or, with all of them in, to the check (41 R120). -/
theorem decoderInPlace_nextBit (pin : s.dec.swDrive = false) (bits : s.dec.bitIdx ≤ s.cfg.nBits) :
    decoderInPlace (nextBit s) = true := by
  obtain ⟨hlt, e⟩ | ⟨hge, e⟩ := nextBit_cases s <;> rw [e]
  · exact decoderInPlace_measureStart hs hp pin ⟨bits, hlt⟩
  · exact decoderInPlace_of_reading hs hp ⟨_, rfl⟩ (by simp [pin]) ⟨bits, by simp; omega⟩

/-- A measurement that counts on stays in its state, one that fails ends the read, and one that returns goes on. -/
theorem decoderInPlace_onMeasure (h : decoderInPlace s = true) (r : Option MeasureResult) (fail : DecResult)
    {go : Nat → State → State} (hgo : ∀ d, decoderInPlace (go d s) = true) :
    decoderInPlace (onMeasure r fail go s) = true := by
  obtain ⟨-, e⟩ | ⟨d, -, e⟩ | ⟨-, e⟩ := onMeasure_cases r fail go s <;> rw [e]
  · exact decoderInPlace_congr h rfl ⟨rfl, rfl, rfl⟩ ⟨rfl, rfl⟩
  · exact hgo d
  · exact decoderInPlace_finishRead hs hp fail (bitIdx_le_of_inPlace h)

theorem decoderInPlace_decoderMove (h : decoderInPlace s = true) : decoderInPlace (decoderMove s) = true := by
  obtain ⟨bits, phase⟩ := bitsFit_of_inPlace h
  have pin := swDrive_of_inPlace h
  obtain ⟨hd, e⟩ | ⟨hd, e⟩ | ⟨hd, e⟩ | ⟨hd, e⟩ | ⟨hd, e⟩ | ⟨hd, e⟩ | ⟨hd, e⟩ | ⟨hd, e⟩ | ⟨hd, e⟩ :=
    decoderMove_cases s <;> rw [e] <;> simp only [hd] at phase pin
  · exact decoderInPlace_of_reading hs hp ⟨_, rfl⟩ (by simp) (by simp [BitsFit])
  · exact decoderInPlace_startSignal hs hp h hd
  · exact decoderInPlace_onMeasure hs hp h _ _ fun _ => decoderInPlace_measureStart hs hp (pin (by simp)) ⟨bits, phase⟩
  · exact decoderInPlace_onMeasure hs hp h _ _ fun _ => decoderInPlace_measureStart hs hp (pin (by simp)) ⟨bits, phase⟩
  · exact decoderInPlace_onMeasure hs hp h _ _ fun _ => decoderInPlace_nextBit hs hp (pin (by simp)) bits
  · exact decoderInPlace_onMeasure hs hp h _ _ fun _ => decoderInPlace_measureStart hs hp (pin (by simp)) ⟨bits, phase⟩
  · refine decoderInPlace_onMeasure hs hp h _ _ fun d => ?_
    exact decoderInPlace_nextBit (s := shiftBit d s) hs hp (pin (by simp)) phase
  · obtain ⟨-, e⟩ | ⟨-, e⟩ := checkFrame_cases s <;> rw [e]
    · exact decoderInPlace_finishRead (s := commitFrame s) hs hp .ok bits
    · exact decoderInPlace_finishRead hs hp _ bits
  · exact h

end Reading

theorem zoneUpdate_dec (s : State) : (zoneUpdate s).dec = s.dec := by
  obtain ⟨-, e⟩ | ⟨-, e⟩ := zoneUpdate_cases s <;> rw [e]
  · simp
  · rfl

theorem sendMove_dec (s : State) : (sendMove s).dec = s.dec := by
  obtain ⟨-, -, e⟩ | ⟨-, -, e⟩ | ⟨-, e⟩ := sendMove_cases s <;> rw [e] <;> rfl

/-- A read's moves keep the decoder in place by their own cases; every other move leaves the idle decoder alone. -/
theorem decoderInPlace_deviceMove {s : State} (h : decoderInPlace s = true) :
    decoderInPlace (deviceMove s) = true := by
  refine deviceMove_keeps (P := fun u => decoderInPlace u = true) ?frame ?send ?result
    (fun hs hp _ => decoderInPlace_decoderMove hs hp h) ?zone ?fall ?bit ?latch h
  case frame => intro u w y hu; exact decoderInPlace_congr hu rfl ⟨rfl, rfl, rfl⟩ ⟨rfl, rfl⟩
  case send =>
    intro hs
    exact decoderInPlace_of_outside h (by simp [hs]) (sendMove_deviceOnly s).cfg (sendMove_dec s)
  case result =>
    intro _ _ hd
    refine decoderInPlace_of_idle (by simp) ?_ ?_
    · rw [takeResult_dec]; exact swDrive_of_inPlace h (by simp [hd])
    · rw [takeResult_dec, (takeResult_deviceOnly s).cfg]; exact bitIdx_le_of_inPlace h
  case zone =>
    intro _ hp
    exact decoderInPlace_of_outside h (by simp [hp]) (zoneUpdate_deviceOnly s).cfg (zoneUpdate_dec s)
  case fall =>
    intro _ hp
    exact decoderInPlace_of_outside h (by simp [hp]) (clockFall_deviceOnly s).cfg (clockFall_dec s)
  case bit =>
    intro _ hp
    exact decoderInPlace_of_outside h (by simp [hp]) (nextZoneBit_deviceOnly s).cfg (nextZoneBit_dec s)
  case latch =>
    intro _ hp
    exact decoderInPlace_of_outside h (by simp [hp]) (latchFall_deviceOnly s).cfg (latchFall_dec s)

theorem keptByMoves_decoderInPlace : KeptByMoves fun u => decoderInPlace u = true := by
  refine keptByMoves_of_deviceSide ?frame (fun _ => decoderInPlace_deviceMove) ?reset ?begin
  case frame => intro u v h hc hd hv; exact decoderInPlace_congr h hc (by simp [hd]) (by rw [hv]; simp)
  case reset => intro u _; exact decoderInPlace_of_idle rfl rfl (Nat.zero_le _)
  case begin =>
    intro b u _ _
    exact (decoderInPlace_iff _).2 ⟨fun _ => rfl, fun _ => ⟨rfl, rfl⟩, by simp [BitsFit]⟩

/-- Settles O50. -/
theorem stepKeepsTheDecoderInPlace : Obligations.StepKeepsTheDecoderInPlace := fun _ _ h hst =>
  keptByMoves_decoderInPlace.step h hst

/-! ### The readings (10 R29, R30, R36) -/

theorem tempInt_le (f : BitVec 40) : tempInt f ≤ 127 := by unfold tempInt; omega

/-- The largest magnitude a frame can carry is `10 * 127 + 255` (41 R129). -/
theorem frameTemp_bounds (f : BitVec 40) : -1525 ≤ frameTemp f ∧ frameTemp f ≤ 1525 := by
  have int := tempInt_le f
  have frac := (frameB3 f).isLt
  unfold frameTemp
  dsimp only
  split <;> omega

/-- The largest humidity a frame can carry is `10 * 255 + 255` (41 R130). -/
theorem frameHum_le (f : BitVec 40) : frameHum f ≤ 2805 := by
  have int := (frameB0 f).isLt
  have frac := (frameB1 f).isLt
  unfold frameHum
  omega

theorem toInt_frameTemp (f : BitVec 40) : (BitVec.ofInt 12 (frameTemp f)).toInt = frameTemp f := by
  obtain ⟨lo, hi⟩ := frameTemp_bounds f
  rw [BitVec.toInt_ofInt]
  exact Int.bmod_eq_of_le (by omega) (by omega)

theorem toNat_frameHum (f : BitVec 40) : (BitVec.ofNat 12 (frameHum f)).toNat = frameHum f := by
  have le := frameHum_le f
  rw [BitVec.toNat_ofNat]
  exact Nat.mod_eq_of_lt (by omega)

/-- The conversion of the ends of the temperature's range, -1525 and 1525, bounds all of it (41 R132). -/
theorem cToF_bounds {t : Int} (lo : -1525 ≤ t) (hi : t ≤ 1525) : -243 ≤ cToF t ∧ cToF t ≤ 307 := by
  unfold cToF
  dsimp only
  rcases lt_trichotomy (9 * t + 1600) 0 with neg | zero | pos
  · rw [Int.sign_eq_neg_one_of_neg neg]; omega
  · simp [zero]
  · rw [Int.sign_eq_one_of_pos pos]; omega

theorem toInt_cToF {t : Int} (lo : -1525 ≤ t) (hi : t ≤ 1525) : (BitVec.ofInt 10 (cToF t)).toInt = cToF t := by
  obtain ⟨flo, fhi⟩ := cToF_bounds lo hi
  rw [BitVec.toInt_ofInt]
  exact Int.bmod_eq_of_le (by omega) (by omega)

/-- The held values of the decoder are in range: R29, R30, and the reset values until the first good read. -/
def HeldInRange (c : Config) (d : Decoder) : Prop :=
  -1525 ≤ d.tempTenths.toInt ∧ d.tempTenths.toInt ≤ 1525 ∧ d.humTenths.toNat ≤ 2805
    ∧ (d.tempValid = false → d.tempTenths = BitVec.ofInt 12 c.tempResetTenths ∧ d.humTenths = 0)

/-- The converted temperature is in range: R36. -/
def TempFInRange (v : Device) : Prop := -243 ≤ v.tempF.toInt ∧ v.tempF.toInt ≤ 307

theorem readingsInRange_iff (s : State) :
    readingsInRange s = true ↔ HeldInRange s.cfg s.dec ∧ TempFInRange s.dev := by
  cases h : s.dec.tempValid <;>
    simp [readingsInRange, HeldInRange, TempFInRange, h, and_assoc, and_comm, and_left_comm]

theorem readingsInRange_congr {u v : State} (h : readingsInRange u = true) (hc : v.cfg = u.cfg)
    (hd : v.dec.tempTenths = u.dec.tempTenths ∧ v.dec.humTenths = u.dec.humTenths
      ∧ v.dec.tempValid = u.dec.tempValid)
    (hv : v.dev.tempF = u.dev.tempF) : readingsInRange v = true := by
  obtain ⟨ht, hh, hvalid⟩ := hd
  simpa only [readingsInRange, hc, ht, hh, hvalid, hv] using h

theorem readingsInRange_convertAndRespond {s : State} (h : readingsInRange s = true) :
    readingsInRange (convertAndRespond s) = true := by
  obtain ⟨held, -⟩ := (readingsInRange_iff s).1 h
  obtain ⟨lo, hi, -⟩ := id held
  have converted : (convertAndRespond s).dev.tempF = BitVec.ofInt 10 (cToF s.dec.tempTenths.toInt) := rfl
  refine (readingsInRange_iff _).2 ⟨held, ?_⟩
  rw [TempFInRange, converted, toInt_cToF lo hi]
  exact cToF_bounds lo hi

/-- A commit writes the three values of a frame, which are in range whatever the frame is (41 R129 to R131). -/
theorem readingsInRange_checkFrame {s : State} (h : readingsInRange s = true) :
    readingsInRange (checkFrame s) = true := by
  obtain ⟨-, e⟩ | ⟨-, e⟩ := checkFrame_cases s <;> rw [e]
  · obtain ⟨-, tempF⟩ := (readingsInRange_iff s).1 h
    obtain ⟨lo, hi⟩ := frameTemp_bounds s.dec.frame
    refine (readingsInRange_iff _).2 ⟨?_, tempF⟩
    simp only [HeldInRange, finishRead_dec, commitFrame_dec, toInt_frameTemp, toNat_frameHum]
    exact ⟨lo, hi, frameHum_le _, fun valid => by simp at valid⟩
  · exact readingsInRange_congr h rfl ⟨rfl, rfl, rfl⟩ rfl

theorem readingsInRange_decoderMove {s : State} (h : readingsInRange s = true) :
    readingsInRange (decoderMove s) = true := by
  have same {v : State} := readingsInRange_congr (v := v) h
  refine decoderMove_keeps (P := fun u => readingsInRange u = true) (same rfl ⟨rfl, rfl, rfl⟩ rfl) ?signal
    (fun _ => same rfl ⟨rfl, rfl, rfl⟩ rfl) (fun _ => same rfl ⟨rfl, rfl, rfl⟩ rfl)
    (fun _ => same rfl ⟨rfl, rfl, rfl⟩ rfl) ?bit ?shift (readingsInRange_checkFrame h) h
  case signal => obtain ⟨-, e⟩ | ⟨-, e⟩ := startSignal_cases s <;> rw [e] <;> exact same rfl ⟨rfl, rfl, rfl⟩ rfl
  case bit => obtain ⟨-, e⟩ | ⟨-, e⟩ := nextBit_cases s <;> rw [e] <;> exact same rfl ⟨rfl, rfl, rfl⟩ rfl
  case shift =>
    intro d
    obtain ⟨-, e⟩ | ⟨-, e⟩ := nextBit_cases (shiftBit d s) <;> rw [e] <;> exact same rfl ⟨rfl, rfl, rfl⟩ rfl

/-- Of the moves of the device only the check and the conversion write a reading. -/
theorem readingsInRange_deviceMove {s : State} (h : readingsInRange s = true) :
    readingsInRange (deviceMove s) = true := by
  refine deviceMove_keeps (P := fun u => readingsInRange u = true) ?frame ?send ?result
    (fun _ _ _ => readingsInRange_decoderMove h) ?zone ?fall ?bit ?latch h
  case frame => intro u w y hu; exact readingsInRange_congr hu rfl ⟨rfl, rfl, rfl⟩ rfl
  case send =>
    intro _
    obtain ⟨-, -, e⟩ | ⟨-, -, e⟩ | ⟨-, e⟩ := sendMove_cases s <;> rw [e] <;>
      exact readingsInRange_congr h rfl ⟨rfl, rfl, rfl⟩ rfl
  case result =>
    intro _ _ _
    exact readingsInRange_congr h (takeResult_deviceOnly s).cfg (by simp) (by rw [takeResult_dev])
  case zone =>
    intro _ _
    obtain ⟨-, e⟩ | ⟨-, e⟩ := zoneUpdate_cases s <;> rw [e]
    · exact readingsInRange_congr h (presentBit_deviceOnly 7 _).cfg (by simp) (by simp)
    · exact readingsInRange_convertAndRespond h
  case fall => intro _ _; exact readingsInRange_congr h (clockFall_deviceOnly s).cfg (by simp) (by simp)
  case bit =>
    intro _ _
    exact readingsInRange_congr h (nextZoneBit_deviceOnly s).cfg (by simp [nextZoneBit_dec])
      (by rw [nextZoneBit_dev])
  case latch =>
    intro _ _
    have converted := readingsInRange_convertAndRespond h
    refine readingsInRange_congr converted (latchFall_deviceOnly s).cfg ?_ (by rw [latchFall_dev])
    rw [latchFall_dec]
    exact ⟨rfl, rfl, rfl⟩

theorem keptByMoves_readingsInRange : KeptByMoves fun u => readingsInRange u = true := by
  refine keptByMoves_of_deviceSide ?frame (fun _ => readingsInRange_deviceMove) ?reset ?begin
  case frame => intro u v h hc hd hv; exact readingsInRange_congr h hc (by simp [hd]) (by rw [hv])
  case reset => intro u _; exact readingsInRange_resetWith u.cfg
  case begin => intro b u _ h; exact readingsInRange_congr h rfl ⟨rfl, rfl, rfl⟩ rfl

/-- Settles O52. -/
theorem stepKeepsReadingsInRange : Obligations.StepKeepsReadingsInRange := fun _ _ h hst =>
  keptByMoves_readingsInRange.step h hst

end Sys2Proof.Machine

/-! Buffers keep their sizes and counters their ranges (spec/10_state.md R23 to R25, R37, R41, R45, R46): on the
device's side, in its transmitter, and on the host's side. -/

namespace Sys2Proof.Machine

/-! ### The response line fits `TXMSG` (30 R87, R88; 44 R190) -/

/-- A number below `10 ^ k` has at most `k` digits. -/
theorem length_decDigits_le (fuel : Nat) {n k : Nat} (acc : List Byte) (hk : 1 ≤ k) (hn : n < 10 ^ k) :
    (decDigits fuel n acc).length ≤ acc.length + k := by
  induction fuel generalizing n k acc with
  | zero => exact Nat.le_add_right _ _
  | succ fuel ih =>
    unfold decDigits
    split
    · simpa using hk
    · next more =>
      obtain ⟨j, rfl⟩ : ∃ j, k = j + 1 := ⟨k - 1, by omega⟩
      have hj : 1 ≤ j := by
        by_contra zero
        obtain rfl : j = 0 := by omega
        simp at hn
        omega
      have rest := ih (digitByte (n % 10) :: acc) hj (n := n / 10) (by rw [Nat.pow_succ] at hn; omega)
      simpa [Nat.add_right_comm, Nat.add_assoc] using rest

theorem length_decNat_le {n k : Nat} (hk : 1 ≤ k) (hn : n < 10 ^ k) : (decNat n).length ≤ k := by
  simpa [decNat] using length_decDigits_le (n + 1) [] hk hn

theorem length_decInt_le {v : Int} {k : Nat} (hk : 1 ≤ k) (hv : v.natAbs < 10 ^ k) : (decInt v).length ≤ k + 1 := by
  have digits := length_decNat_le hk hv
  unfold decInt
  split
  · simpa using digits
  · omega

/-- Whatever the ten bits of `TEMP_F` and the eight of `MOIST` hold, the line has at most 45 bytes. -/
theorem length_responseLine_le (t : BitVec 10) (m z : Byte) :
    (responseLine t.toInt m.toNat z).length ≤ Config.txMsgSize := by
  have tBound : t.toInt.natAbs < 10 ^ 3 := by
    have lo := BitVec.le_toInt t
    have hi := BitVec.toInt_lt (x := t)
    norm_num at lo hi ⊢
    omega
  have temp := length_decInt_le (by omega) tBound
  have moist := length_decNat_le (n := m.toNat) (k := 3) (by omega) (by omega)
  simp only [responseLine, textTemp, textMoisture, textZone, Config.txMsgSize, List.length_append, List.length_cons,
    List.length_nil]
  omega

/-- A write into a buffer that has room for it keeps the buffer's size. -/
theorem length_writePrefix {new old : List Byte} (h : new.length ≤ old.length) :
    (writePrefix new old).length = old.length := by
  simp [writePrefix]
  omega

/-! ### The device's side -/

/-- The decoder's counters and the controller's buffer with its indexes are in range (10 R23, R24, R37). -/
def DeviceInRange (s : State) : Prop :=
  s.dec.tmrCnt ≤ s.cfg.timerBoundUs ∧ s.dec.startCnt ≤ s.cfg.tStartUs
    ∧ s.dev.txMsg.length = Config.txMsgSize ∧ s.dev.txLen ≤ Config.txMsgSize ∧ s.dev.txIdx ≤ s.dev.txLen

theorem deviceInRange_congr {u v : State} (h : DeviceInRange u) (hc : v.cfg = u.cfg)
    (hd : v.dec.tmrCnt = u.dec.tmrCnt ∧ v.dec.startCnt = u.dec.startCnt)
    (hv : v.dev.txMsg = u.dev.txMsg ∧ v.dev.txLen = u.dev.txLen ∧ v.dev.txIdx = u.dev.txIdx) : DeviceInRange v := by
  obtain ⟨htmr, hstart⟩ := hd
  obtain ⟨hmsg, hlen, hidx⟩ := hv
  simpa only [DeviceInRange, hc, htmr, hstart, hmsg, hlen, hidx] using h

/-- A decoder whose counters are in range keeps the device's side in range: its moves leave `TXMSG` alone. -/
theorem deviceInRange_of_counters {u v : State} (h : DeviceInRange u) (hc : v.cfg = u.cfg)
    (tmr : v.dec.tmrCnt ≤ u.cfg.timerBoundUs) (start : v.dec.startCnt ≤ u.cfg.tStartUs)
    (hv : v.dev.txMsg = u.dev.txMsg ∧ v.dev.txLen = u.dev.txLen ∧ v.dev.txIdx = u.dev.txIdx) : DeviceInRange v := by
  obtain ⟨-, -, msg⟩ := h
  obtain ⟨hmsg, hlen, hidx⟩ := hv
  exact ⟨hc ▸ tmr, hc ▸ start, by rwa [hmsg, hlen, hidx]⟩

/-- Each counter of the decoder is reset or counts one below its bound (40 R110, 41 R121). -/
theorem deviceInRange_decoderMove {s : State} (h : DeviceInRange s) : DeviceInRange (decoderMove s) := by
  obtain ⟨tmr, start, -⟩ := id h
  have counters {v : State} := deviceInRange_of_counters (v := v) h
  have same : s.dev.txMsg = s.dev.txMsg ∧ s.dev.txLen = s.dev.txLen ∧ s.dev.txIdx = s.dev.txIdx := ⟨rfl, rfl, rfl⟩
  refine decoderMove_keeps (counters rfl tmr (Nat.zero_le _) same) ?signal
    (fun below => counters rfl below start same) (fun _ => counters rfl tmr start same)
    (fun _ => counters rfl (Nat.zero_le _) start same) ?bit ?shift ?check h
  case signal =>
    obtain ⟨below, e⟩ | ⟨-, e⟩ := startSignal_cases s <;> rw [e]
    · exact counters rfl tmr below same
    · exact counters rfl (Nat.zero_le _) start same
  case bit =>
    obtain ⟨-, e⟩ | ⟨-, e⟩ := nextBit_cases s <;> rw [e]
    · exact counters rfl (Nat.zero_le _) start same
    · exact counters rfl tmr start same
  case shift =>
    intro d
    obtain ⟨-, e⟩ | ⟨-, e⟩ := nextBit_cases (shiftBit d s) <;> rw [e]
    · exact counters rfl (Nat.zero_le _) start same
    · exact counters rfl tmr start same
  case check => obtain ⟨-, e⟩ | ⟨-, e⟩ := checkFrame_cases s <;> rw [e] <;> exact counters rfl tmr start same

theorem deviceInRange_convertAndRespond {s : State} (h : DeviceInRange s) : DeviceInRange (convertAndRespond s) := by
  obtain ⟨tmr, start, size, -⟩ := h
  have fits := length_responseLine_le (BitVec.ofInt 10 (cToF s.dec.tempTenths.toInt)) s.dev.moist s.dev.curZone
  refine ⟨tmr, start, ?_, fits, Nat.zero_le _⟩
  exact (length_writePrefix (size ▸ fits)).trans size

theorem deviceInRange_sendMove {s : State} (h : DeviceInRange s) : DeviceInRange (sendMove s) := by
  obtain ⟨below, -, e⟩ | ⟨-, -, e⟩ | ⟨-, e⟩ := sendMove_cases s <;> rw [e]
  · obtain ⟨tmr, start, size, len, -⟩ := h
    exact ⟨tmr, start, size, len, below⟩
  · exact h
  · exact h

/-- Of the moves of the device those of the decoder count, the conversion fills `TXMSG`, and sending moves along it. -/
theorem deviceInRange_deviceMove {s : State} (h : DeviceInRange s) : DeviceInRange (deviceMove s) := by
  refine deviceMove_keeps (P := DeviceInRange) (fun _ _ hu => hu) (fun _ => deviceInRange_sendMove h) ?result
    (fun _ _ _ => deviceInRange_decoderMove h) ?zone ?fall ?bit ?latch h
  case result =>
    intro _ _ _
    exact deviceInRange_congr h (takeResult_deviceOnly s).cfg (by simp) (by rw [takeResult_dev]; simp)
  case zone =>
    intro _ _
    obtain ⟨-, e⟩ | ⟨-, e⟩ := zoneUpdate_cases s <;> rw [e]
    · exact deviceInRange_congr h (presentBit_deviceOnly 7 _).cfg (by simp) (by simp)
    · exact deviceInRange_convertAndRespond h
  case fall => intro _ _; exact deviceInRange_congr h (clockFall_deviceOnly s).cfg (by simp) (by simp)
  case bit =>
    intro _ _
    exact deviceInRange_congr h (nextZoneBit_deviceOnly s).cfg (by simp [nextZoneBit_dec])
      (by rw [nextZoneBit_dev]; simp)
  case latch =>
    intro _ _
    refine deviceInRange_congr (deviceInRange_convertAndRespond h) (latchFall_deviceOnly s).cfg ?_ ?_
    · rw [latchFall_dec]; exact ⟨rfl, rfl⟩
    · rw [latchFall_dev]; exact ⟨rfl, rfl, rfl⟩

theorem keptByMoves_deviceInRange : KeptByMoves DeviceInRange := by
  refine keptByMoves_of_deviceSide ?frame (fun _ => deviceInRange_deviceMove) ?reset ?begin
  case frame => intro u v h hc hd hv; exact deviceInRange_congr h hc (by simp [hd]) (by rw [hv]; simp)
  case reset => intro u _; exact ⟨Nat.zero_le _, Nat.zero_le _, by simp [Device.reset], Nat.zero_le _, le_refl _⟩
  case begin => intro b u _ h; exact deviceInRange_of_counters h rfl h.1 (Nat.zero_le _) ⟨rfl, rfl, rfl⟩

/-! ### The device's transmitter -/

/-- `TX_REMAIN` is in range (10 R41). -/
def TransmitterInRange (s : State) : Prop := s.duart.txRemain ≤ s.cfg.byteTimeUs

theorem transmitterInRange_congr {u v : State} (h : TransmitterInRange u) (hc : v.cfg = u.cfg)
    (hr : v.duart.txRemain = u.duart.txRemain) : TransmitterInRange v := by
  rwa [TransmitterInRange, hc, hr]

theorem transmitterInRange_sendMove {s : State} (h : TransmitterInRange s) : TransmitterInRange (sendMove s) := by
  obtain ⟨-, -, e⟩ | ⟨-, -, e⟩ | ⟨-, e⟩ := sendMove_cases s <;> rw [e]
  · exact le_refl s.cfg.byteTimeUs
  · exact h
  · exact h

theorem decoderMove_duart (s : State) : (decoderMove s).duart = s.duart := by
  have h := decoderMove_decoderOnly s
  rw [DecoderOnly] at h
  rw [h]

@[simp] theorem presentBit_duart (i : Nat) (s : State) : (presentBit i s).duart = s.duart := by simp [presentBit]

theorem nextZoneBit_duart (s : State) : (nextZoneBit s).duart = s.duart := by
  obtain ⟨-, e⟩ | ⟨i, -, e⟩ := nextZoneBit_cases s <;> rw [e]
  · simp [latchRise]
  · exact presentBit_duart i s

theorem zoneUpdate_duart (s : State) : (zoneUpdate s).duart = s.duart := by
  obtain ⟨-, e⟩ | ⟨-, e⟩ := zoneUpdate_cases s <;> rw [e]
  · exact presentBit_duart 7 _
  · rfl

/-- Of the moves of the device only a sent byte touches the transmitter. -/
theorem transmitterInRange_deviceMove {s : State} (h : TransmitterInRange s) : TransmitterInRange (deviceMove s) := by
  have same : ∀ {v : State}, DeviceOnly s v → v.duart = s.duart → TransmitterInRange v :=
    fun only hr => transmitterInRange_congr h only.cfg (by rw [hr])
  exact deviceMove_keeps (P := TransmitterInRange) (fun _ _ hu => hu) (fun _ => transmitterInRange_sendMove h)
    (fun _ _ _ => same (takeResult_deviceOnly s) (by simp [takeResult]))
    (fun _ _ _ => same (decoderMove_deviceOnly s) (decoderMove_duart s))
    (fun _ _ => same (zoneUpdate_deviceOnly s) (zoneUpdate_duart s))
    (fun _ _ => same (clockFall_deviceOnly s) (by simp [clockFall]))
    (fun _ _ => same (nextZoneBit_deviceOnly s) (nextZoneBit_duart s))
    (fun _ _ => same (latchFall_deviceOnly s) (by simp [latchFall, convertAndRespond])) h

theorem transmitterInRange_deviceTransmit {s : State} (h : TransmitterInRange s) :
    TransmitterInRange (deviceTransmit s) := by
  obtain ⟨-, e⟩ | ⟨-, -, e⟩ | ⟨-, -, e⟩ := deviceTransmit_cases s <;> rw [e]
  · exact h
  · rw [TransmitterInRange, deliverD2H_eq]; exact Nat.zero_le _
  · exact (Nat.sub_le _ _).trans h

theorem keptByMoves_transmitterInRange : KeptByMoves TransmitterInRange where
  elapse _ h := h
  deviceTransmit _ := transmitterInRange_deviceTransmit
  hostTransmit u h := by rw [hostTransmit_eq]; exact h
  deviceMove _ := transmitterInRange_deviceMove
  hostRun u h := transmitterInRange_congr h (by simp) (by simp)
  takeReset u h := by
    obtain e | ⟨r, rest, -, -, e⟩ := takeReset_cases u <;> rw [e]
    · exact h
    · cases r.node
      · exact Nat.zero_le _
      · exact h
  openKey u h := transmitterInRange_congr h (by simp) (by simp)
  beginCycle _ _ _ h := h

/-! ### The host's side -/

/-- The host's buffer and queue, its timer and its transmitter are in range (10 R45, R46). -/
structure HostInRange (s : State) : Prop where
  bufSize : s.host.hBuf.length = s.cfg.rxBufSize
  len : s.host.hLen ≤ s.cfg.rxBufSize
  queue : s.host.hrxdQ.length ≤ s.cfg.hostFifoDepth
  timer : s.host.timer ≤ max s.cfg.hostDeadlineUs s.cfg.blindWaitUs
  remain : s.host.htxRemain ≤ s.cfg.byteTimeUs

/-- A read takes at most `RX_BUF_SIZE` bytes, which fit `HBUF`, and leaves a shorter queue (43 R169). -/
theorem hostInRange_hostRead {s : State} (h : HostInRange s) :
    HostInRange { hostRead s with host.state := .release } where
  bufSize := by
    have fits : (s.host.hrxdQ.take s.cfg.rxBufSize).length ≤ s.host.hBuf.length := by
      rw [h.bufSize]; exact List.length_take_le _ _
    exact (length_writePrefix fits).trans h.bufSize
  len := List.length_take_le _ _
  queue := (List.length_drop ▸ Nat.sub_le _ _ : (s.host.hrxdQ.drop s.cfg.rxBufSize).length ≤ _).trans h.queue
  timer := h.timer
  remain := h.remain

theorem hostInRange_of_hostMove {u v : State} (m : HostMove u v) (h : HostInRange u) : HostInRange v := by
  have empty : ([] : List Byte).length ≤ u.cfg.hostFifoDepth := Nat.zero_le _
  cases m
  case begun | refused | unavailable | ready | arrived => exact ⟨h.bufSize, h.len, h.queue, h.timer, h.remain⟩
  case aborted | released => exact ⟨h.bufSize, h.len, empty, h.timer, h.remain⟩
  case opened => exact ⟨h.bufSize, h.len, empty, Nat.zero_le _, h.remain⟩
  case blindOver => exact ⟨h.bufSize, h.len, h.queue, Nat.zero_le _, h.remain⟩
  case written => exact ⟨h.bufSize, h.len, h.queue, Nat.zero_le _, le_refl _⟩
  case polled below => exact ⟨h.bufSize, h.len, h.queue, lt_max_of_lt_left below, h.remain⟩
  case counted below => exact ⟨h.bufSize, h.len, h.queue, below, h.remain⟩
  case read => exact hostInRange_hostRead h

/-- A byte is queued only while the queue has room (43 R171). -/
theorem hostInRange_deviceTransmit {s : State} (h : HostInRange s) : HostInRange (deviceTransmit s) := by
  have queue : (deviceTransmit s).host.hrxdQ.length ≤ s.cfg.hostFifoDepth := by
    obtain e | ⟨-, room, c, e⟩ := deviceTransmit_queue s <;> rw [e]
    · exact h.queue
    · simpa using room
  constructor <;> rw [deviceTransmit_cfg, deviceTransmit_host]
  exacts [h.bufSize, h.len, queue, h.timer, h.remain]

theorem hostInRange_hostTransmit {s : State} (h : HostInRange s) : HostInRange (hostTransmit s) := by
  have remain : (hostTransmit s).host.htxRemain ≤ s.cfg.byteTimeUs := by
    obtain ⟨-, e⟩ | ⟨-, -, -, e⟩ | ⟨-, -, -, e⟩ | ⟨-, -, e⟩ := hostTransmit_cases s <;> rw [e]
    · exact h.remain
    · exact Nat.zero_le _
    · rw [deliverH2D_eq]; exact Nat.zero_le _
    · exact (Nat.sub_le _ _).trans h.remain
  constructor <;> rw [hostTransmit_cfg, hostTransmit_host]
  exacts [h.bufSize, h.len, h.queue, h.timer, remain]

theorem keptByMoves_hostInRange : KeptByMoves HostInRange := by
  refine keptByMoves_of_hostSide ?frame (fun _ => hostInRange_deviceTransmit) (fun _ => hostInRange_hostTransmit)
    (fun _ => hostRun_keeps hostInRange_of_hostMove) ?reset fun i _ => openCommand_keeps hostInRange_of_hostMove i
  case frame =>
    intro u v h hc eh _ _
    constructor <;> rw [hc, eh]
    exacts [h.bufSize, h.len, h.queue, h.timer, h.remain]
  case reset =>
    intro n u h
    cases n
    · exact ⟨h.bufSize, h.len, h.queue, h.timer, h.remain⟩
    · exact ⟨List.length_replicate, Nat.zero_le _, Nat.zero_le _, Nat.zero_le _, Nat.zero_le _⟩

/-! ### All of them -/

theorem buffersInRange_iff (s : State) :
    buffersInRange s = true ↔ (DeviceInRange s ∧ TransmitterInRange s) ∧ HostInRange s := by
  constructor
  · intro h
    simp only [buffersInRange, Bool.and_eq_true, decide_eq_true_eq] at h
    obtain ⟨⟨⟨⟨⟨⟨⟨⟨⟨⟨msg, txLen⟩, txIdx⟩, buf⟩, len⟩, queue⟩, tmr⟩, start⟩, timer⟩, tx⟩, htx⟩ := h
    exact ⟨⟨⟨tmr, start, msg, txLen, txIdx⟩, tx⟩, buf, len, queue, timer, htx⟩
  · rintro ⟨⟨⟨tmr, start, msg, txLen, txIdx⟩, tx⟩, buf, len, queue, timer, htx⟩
    simp only [buffersInRange, Bool.and_eq_true, decide_eq_true_eq]
    exact ⟨⟨⟨⟨⟨⟨⟨⟨⟨⟨msg, txLen⟩, txIdx⟩, buf⟩, len⟩, queue⟩, tmr⟩, start⟩, timer⟩, tx⟩, htx⟩

/-- Settles O51: the three parts are invariants each, and `BIT_IDX` is bounded wherever the decoder is in place. -/
theorem stepKeepsBuffersInRange : Obligations.StepKeepsBuffersInRange := by
  intro s t h hst
  have parts := (keptByMoves_deviceInRange.and keptByMoves_transmitterInRange).and keptByMoves_hostInRange
  refine ⟨(buffersInRange_iff t).2 (parts.step ((buffersInRange_iff s).1 h) hst), fun place => ?_⟩
  have kept := keptByMoves_decoderInPlace.step place hst
  exact ⟨kept, bitIdx_le_of_inPlace kept⟩

end Sys2Proof.Machine

/-! What does not take part: a quiet host in a request's cycle, and the user's interrupt flag in any step; and one turn
of the measuring loop. -/

namespace Sys2Proof.Machine

/-! ### A request's cycle beside a quiet host (10 R46, 43 R171, 45 R200) -/

theorem hostQuiet_iff (s : State) :
    hostQuiet s = true ↔
      s.env.keys = [] ∧ s.host.state = .idle ∧ s.host.htxReady = true ∧ s.host.lineOpen = false := by
  simp [hostQuiet, and_assoc]

/-- `t` is `s` but for time, the decoder, the controller, the actuator, the device's transmitter and the inputs that a
cycle uses. -/
def CycleOnly (s t : State) : Prop :=
  t = { s with
    now := t.now, dec := t.dec, dev := t.dev, zact := t.zact
    duart := { s.duart with txd := t.duart.txd, txReady := t.duart.txReady, txRemain := t.duart.txRemain }
    env := { s.env with
      sensor := t.env.sensor, moisture := t.env.moisture, chanD2H := t.env.chanD2H, turns := t.env.turns } }

theorem CycleOnly.trans {s t u : State} (h : CycleOnly s t) (k : CycleOnly t u) : CycleOnly s u := by
  unfold CycleOnly at *
  rw [k, h]

theorem CycleOnly.hostQuiet {s t : State} (h : CycleOnly s t) (q : hostQuiet s = true) : hostQuiet t = true := by
  rw [h]; exact q

theorem CycleOnly.noReset {s t : State} (h : CycleOnly s t) (n : noReset s = true) : noReset t = true := by
  rw [h]; exact n

theorem DeviceOnly.cycleOnly {s t : State} (h : DeviceOnly s t) : CycleOnly s t := by
  unfold CycleOnly
  rw [h]

/-- With the line closed the device's transmitter reaches no queue (43 R171). -/
theorem cycleOnly_deviceTransmit {s : State} (closed : s.host.lineOpen = false) : CycleOnly s (deviceTransmit s) := by
  obtain queue | ⟨opened, -⟩ := deviceTransmit_queue s
  · rw [deviceTransmit_eq, queue]; rfl
  · simp [closed] at opened

theorem hostTransmit_of_ready {s : State} (h : s.host.htxReady = true) : hostTransmit s = s := if_pos h

/-- A tick beside a quiet host touches nothing but what a cycle may touch. -/
theorem cycleOnly_tick {s : State} (q : hostQuiet s = true) : CycleOnly s (tick s) := by
  have sent : CycleOnly s (deviceTransmit (elapse s)) :=
    (show CycleOnly s (elapse s) from rfl).trans (cycleOnly_deviceTransmit ((hostQuiet_iff s).1 q).2.2.2)
  have ran := sent.trans (deviceRun_deviceOnly (deviceTransmit (elapse s))).cycleOnly
  obtain ⟨-, -, ready, -⟩ := (hostQuiet_iff _).1 (sent.hostQuiet q)
  obtain ⟨-, idle, -, -⟩ := (hostQuiet_iff _).1 (ran.hostQuiet q)
  rwa [tick_eq, hostTransmit_of_ready ready, hostRun_of_idle idle]

/-- With no key and no reset to come, the inputs due before a tick and the tick are that tick. -/
theorem advance_pollInputs_of_noEvents {s : State} (h : noEvents s) : advance (pollInputs s) = tick s := by
  rw [pollInputs_of_noReset h.1, takeKey_of_noKeys h.2, advance_of_noEvents h]

theorem cycleOnly_deviceCycle (b : Byte) {s : State} (q : hostQuiet s = true) (n : noReset s = true) :
    CycleOnly (clearRxFull s) (deviceCycle b s) := by
  refine runToAwait_induct (P := CycleOnly (clearRxFull s)) (fun u hu _ => ?tick) _ ?start
  case tick =>
    have quiet := hu.hostQuiet q
    obtain ⟨keys, -⟩ := (hostQuiet_iff u).1 quiet
    rw [advance_pollInputs_of_noEvents ⟨hu.noReset n, keys⟩]
    exact hu.trans (cycleOnly_tick quiet)
  case start =>
    have begun : CycleOnly (clearRxFull s) (beginCycle b s) := rfl
    exact begun.trans (deviceRun_deviceOnly _).cycleOnly

/-- Each of the nine request-byte instructions runs the cycle of its byte (44 R191 to R199). -/
theorem exec_request {i : Instr} {b : Byte} (s : State)
    (hi : (i, b) ∈ ([(.zoneSelect1, 0x31), (.zoneSelect2, 0x32), (.zoneSelect3, 0x33), (.zoneSelect4, 0x34),
        (.zoneSelect5, 0x35), (.zoneSelect6, 0x36), (.zoneSelect7, 0x37), (.zoneSelect8, 0x38)] : List (Instr × Byte))
      ∨ i = .statusOnly b) : exec i s = .next (deviceCycle b s) := by
  obtain zone | rfl := hi
  · simp only [List.mem_cons, Prod.mk.injEq, List.not_mem_nil, or_false] at zone
    obtain ⟨rfl, rfl⟩ | ⟨rfl, rfl⟩ | ⟨rfl, rfl⟩ | ⟨rfl, rfl⟩ | ⟨rfl, rfl⟩ | ⟨rfl, rfl⟩ | ⟨rfl, rfl⟩ | ⟨rfl, rfl⟩ := zone
    all_goals rfl
  · rfl

/-- Settles O24: the cycle touches only what `CycleOnly` names, after `RX_FULL` is cleared. -/
theorem requestLeavesTheHostAlone : Obligations.RequestLeavesTheHostAlone := by
  intro i b s hi q n
  have only := cycleOnly_deviceCycle b q n
  refine ⟨deviceCycle b s, exec_request s (hi.imp_right And.left), ?_⟩
  rw [only]
  exact ⟨rfl, rfl, rfl, rfl, rfl, rfl, rfl, rfl, rfl, rfl, rfl, rfl, rfl, rfl⟩

/-! ### The user's interrupt flag (10 R49, 45 R217; log 27) -/

/-- `s` with the user's interrupt flag at `v`. -/
def withIntr (v : Bool) (s : State) : State := { s with env.intr := v }

/-- The device program neither reads nor writes the flag: it is part of the rest of the machine. -/
theorem deviceRun_withIntr (v : Bool) (s : State) : deviceRun (withIntr v s) = withIntr v (deviceRun s) := by
  have flag : deviceRun (withIntr v s) = withRest (withIntr v s) (deviceRun s) := deviceRun_withRest (withIntr v s) s
  have touched := deviceRun_deviceOnly s
  rw [flag]
  generalize deviceRun s = t at *
  rw [touched]; rfl

/-- What touches the host's side alone and does not read the rest of the machine does not read the flag. -/
theorem withIntr_of_hostOnly {f : State → State} (only : ∀ s, HostOnly s (f s))
    (rest : ∀ o s, f (withHostRest o s) = withHostRest o (f s)) (v : Bool) (s : State) :
    f (withIntr v s) = withIntr v (f s) := by
  have flag : f (withIntr v s) = withHostRest (withIntr v s) (f s) := rest (withIntr v s) s
  have touched := only s
  rw [flag]
  generalize f s = t at *
  rw [touched]; rfl

theorem hostRun_withIntr (v : Bool) (s : State) : hostRun (withIntr v s) = withIntr v (hostRun s) :=
  withIntr_of_hostOnly hostRun_hostOnly hostRun_withHostRest v s

theorem stepOpen_withIntr (v : Bool) (s : State) : stepOpen (withIntr v s) = withIntr v (stepOpen s) :=
  withIntr_of_hostOnly (fun u => (hostOnly_of_cases u).1) stepOpen_withHostRest v s

theorem deliverD2H_withIntr (v : Bool) (b : Byte) (s : State) :
    deliverD2H b (withIntr v s) = withIntr v (deliverD2H b s) := by
  have fate : chanFate .d2h b (withIntr v s).env.chanD2H (withIntr v s).now = chanFate .d2h b s.env.chanD2H s.now := rfl
  unfold deliverD2H
  rw [fate]
  cases chanFate .d2h b s.env.chanD2H s.now with
  | none => rfl
  | some c =>
    simp only [hostReceive]
    rw [apply_ite (withIntr v)]
    rfl

theorem deliverH2D_withIntr (v : Bool) (b : Byte) (s : State) :
    deliverH2D b (withIntr v s) = withIntr v (deliverH2D b s) := by
  have fate : chanFate .h2d b (withIntr v s).env.chanH2D (withIntr v s).now = chanFate .h2d b s.env.chanH2D s.now := rfl
  unfold deliverH2D
  rw [fate]
  cases chanFate .h2d b s.env.chanH2D s.now with
  | none => rfl
  | some c =>
    simp only [deviceReceive]
    rw [apply_ite (withIntr v)]
    rfl

theorem deviceTransmit_withIntr (v : Bool) (s : State) :
    deviceTransmit (withIntr v s) = withIntr v (deviceTransmit s) := by
  unfold deviceTransmit
  rw [apply_ite (withIntr v), apply_ite (withIntr v), ← deliverD2H_withIntr]
  rfl

theorem hostTransmit_withIntr (v : Bool) (s : State) :
    hostTransmit (withIntr v s) = withIntr v (hostTransmit s) := by
  unfold hostTransmit
  rw [apply_ite (withIntr v), apply_ite (withIntr v), apply_ite (withIntr v), ← deliverH2D_withIntr]
  rfl

theorem takeReset_withIntr (v : Bool) (s : State) : takeReset (withIntr v s) = withIntr v (takeReset s) := by
  have same : (withIntr v s).env.resets = s.env.resets := rfl
  unfold takeReset
  rw [same]
  cases s.env.resets with
  | nil => rfl
  | cons r rest =>
    simp only
    rw [apply_ite (withIntr v)]
    cases r.node <;> rfl

theorem openTransaction_withIntr (v : Bool) (req : Byte) (disp : Bool) (s : State) :
    openTransaction req disp (withIntr v s) = withIntr v (openTransaction req disp s) :=
  stepOpen_withIntr v { s with host.req := req, host.disp := disp, host.state := .opening }

theorem openCommand_withIntr (v : Bool) (i : Instr) (s : State) :
    openCommand i (withIntr v s) = withIntr v (openCommand i s) := by
  cases i with
  | keyHostStatus =>
    simp only [openCommand, openStatus]
    rw [apply_ite (withIntr v), ← openTransaction_withIntr]
    rfl
  | keyHostZone n =>
    simp only [openCommand, openZone]
    rw [apply_ite (withIntr v), apply_ite (withIntr v), ← openTransaction_withIntr]
    rfl
  | _ => rfl

theorem dueKey_withIntr (v : Bool) (s : State) : dueKey (withIntr v s) = dueKey s := rfl

theorem openKey_withIntr (v : Bool) (s : State) : openKey (withIntr v s) = withIntr v (openKey s) := by
  unfold openKey
  rw [dueKey_withIntr]
  cases dueKey s with
  | none => rfl
  | some k =>
    simp only
    cases decodeKey k.key k.entry with
    | ok i => exact openCommand_withIntr v i (dropKey s)
    | error e => rfl

theorem takeKey_withIntr (v : Bool) (s : State) : takeKey (withIntr v s) = withIntr v (takeKey s) := by
  unfold takeKey firstPoll
  rw [openKey_withIntr, hostRun_withIntr, apply_ite (withIntr v)]
  rfl

theorem runTurn_withIntr (v : Bool) (t : List Move) (s : State) :
    runTurn t (withIntr v s) = withIntr v (runTurn t s) := by
  induction t generalizing s with
  | nil => rfl
  | cons m rest ih =>
    cases m <;> simp only [runTurn]
    case duart => rw [deviceTransmit_withIntr, ih]
    case hostUart => rw [hostTransmit_withIntr, ih]
    case dev => rw [deviceRun_withIntr, ih]
    case host => rw [hostRun_withIntr, ih]
    case reset => rw [takeReset_withIntr, ih]
    case key => rw [openKey_withIntr, takeKey_withIntr, ← apply_ite (withIntr v), ih]

theorem advance_withIntr (v : Bool) (s : State) : advance (withIntr v s) = withIntr v (advance s) :=
  runTurn_withIntr v (nextTurn s) (elapse s)

theorem runToAwait_withIntr (v : Bool) (n : Nat) (s : State) :
    runToAwait n (withIntr v s) = withIntr v (runToAwait n s) := by
  induction n generalizing s with
  | zero => rfl
  | succ n ih =>
    unfold runToAwait
    rw [apply_ite (withIntr v), ← ih]
    simp only [pollInputs, takeReset_withIntr, takeKey_withIntr, advance_withIntr]
    rfl

theorem deviceCycle_withIntr (v : Bool) (b : Byte) (s : State) :
    deviceCycle b (withIntr v s) = withIntr v (deviceCycle b s) := by
  unfold deviceCycle
  rw [← runToAwait_withIntr, ← deviceRun_withIntr]
  rfl

/-- The state after a step of a legal machine, the cases of `step_cases` as one function: a request's cycle, a reset, a
key or a tick. -/
def stepTarget (s : State) : State :=
  if requestPending s then deviceCycle s.duart.rxd s
  else if resetPending s then takeReset s
  else if (dueKey s).isSome then takeKey s
  else advance s

/-- A legal machine always takes a step (60 R243). -/
theorem step_answers {s : State} (hc : configLegal s.cfg = true) : ∃ t, step s = .next t := by
  by_cases hr : requestPending s = true
  · exact ⟨_, (step_of_request hc hr).trans (exec_decodeRequest _ s)⟩
  have hr : requestPending s = false := Bool.eq_false_iff.2 hr
  by_cases hp : resetPending s = true
  · exact ⟨takeReset s, by simp [step, hc, hr, hp]⟩
  have hp : resetPending s = false := Bool.eq_false_iff.2 hp
  cases hk : dueKey s with
  | none => exact ⟨_, step_of_nothingDue hc hr hp hk⟩
  | some k =>
    cases hi : decodeKey k.key k.entry with
    | ok i => exact ⟨_, (step_of_key hc hr hp hk hi).trans (exec_decodeKey hi _)⟩
    | error e => exact ⟨_, step_of_unassignedKey hc hr hp hk hi⟩

theorem step_eq_stepTarget {s : State} (hc : configLegal s.cfg = true) : step s = .next (stepTarget s) := by
  obtain ⟨t, ht⟩ := step_answers hc
  rw [ht]
  congr 1
  obtain ⟨-, ⟨await, full, e⟩ | ⟨hr, hp, e⟩ | ⟨hr, hp, ⟨k, hk⟩, e⟩ | ⟨hr, hp, hk, e⟩⟩ := step_cases ht
  · simp [e, stepTarget, requestPending, await, full]
  · simp [e, stepTarget, hr, hp]
  · simp [e, stepTarget, hr, hp, hk]
  · simp [e, stepTarget, hr, hp, hk]

theorem stepTarget_withIntr (v : Bool) (s : State) : stepTarget (withIntr v s) = withIntr v (stepTarget s) := by
  unfold stepTarget
  rw [apply_ite (withIntr v), apply_ite (withIntr v), apply_ite (withIntr v), ← deviceCycle_withIntr,
    ← takeReset_withIntr, ← takeKey_withIntr, ← advance_withIntr]
  rfl

/-- Settles O60: the step's target commutes with a change of the flag. -/
theorem userInterruptChangesNothing : Obligations.UserInterruptChangesNothing := by
  intro s t v hst
  obtain ⟨hc, -⟩ := step_cases hst
  have target : stepTarget s = t := by simpa [step_eq_stepTarget hc] using hst
  show step (withIntr v s) = .next (withIntr v t)
  rw [step_eq_stepTarget (s := withIntr v s) hc, stepTarget_withIntr, target]

/-! ### One turn of the measuring loop (10 R42, 40 R110) -/

theorem measurePoll_of_bound {level : Level} {s : State} (h : s.cfg.timerBoundUs ≤ s.dec.tmrCnt) :
    measurePoll level s = some .noTransition := if_neg (by omega)

theorem measurePoll_of_below {level : Level} {s : State} (h : s.dec.tmrCnt < s.cfg.timerBoundUs) :
    measurePoll level s = if lineLevel s = level then none else some (.ok s.dec.tmrCnt) := if_pos h

/-- The line is low exactly while one of its two ends pulls it low. -/
theorem lineLevel_eq_low_iff (s : State) : lineLevel s = .low ↔ s.dec.swDrive = true ∨ sensorLow s = true := by
  unfold lineLevel
  split <;> simp_all

/-- Settles O13: bound, other level and same level as the three outcomes of a turn, and the two ends of the line. -/
theorem measureReturnsAtTheOppositeLevel : Obligations.MeasureReturnsAtTheOppositeLevel := by
  intro level s
  refine ⟨measurePoll_of_bound, fun below other => ?other, fun below same => ?same, fun drive => ?drive,
    fun released => ?released⟩
  case other => rw [measurePoll_of_below below, if_neg other]
  case same => rw [measurePoll_of_below below, if_pos same]
  case drive => exact (lineLevel_eq_low_iff s).2 (.inl drive)
  case released => simp [lineLevel_eq_low_iff, released]

end Sys2Proof.Machine

/-! The zone actuator: it follows the mask through every step, and the relays move at the latch alone
(spec/42_zone_actuator.md R150 to R153, spec/20_memory.md R71). -/

namespace Sys2Proof.Machine

/-! ### The actuator's registers (10 R38, R39; 42 R150 to R153) -/

theorem setZclk_true_zact {s : State} (low : s.zact.zclk = false) :
    (setZclk true s).zact = { s.zact with
      zclk := true, zsr := (s.zact.zsr <<< 1) ||| BitVec.zeroExtend 8 (BitVec.ofBool s.zact.zdata) } := by
  simp [setZclk, low]

theorem presentBit_zact {s : State} (i : Nat) (low : s.zact.zclk = false) :
    (presentBit i s).zact = { s.zact with
      zdata := s.dev.zmask.getLsbD i, zclk := true
      zsr := (s.zact.zsr <<< 1) ||| BitVec.zeroExtend 8 (BitVec.ofBool (s.dev.zmask.getLsbD i)) } :=
  setZclk_true_zact (s := { s with zact.zdata := s.dev.zmask.getLsbD i }) low

theorem clockFall_zact (s : State) : (clockFall s).zact = { s.zact with zclk := false } := rfl

theorem latchRise_zact {s : State} (low : s.zact.zlatch = false) :
    (latchRise s).zact = { s.zact with zlatch := true, zout := s.zact.zsr } := by
  simp [latchRise, setZlatch, low]

theorem latchFall_zact (s : State) : (latchFall s).zact = { s.zact with zlatch := false } := rfl

@[simp] theorem takeResult_zact (s : State) : (takeResult s).zact = s.zact := by simp [takeResult]

theorem decoderMove_zact (s : State) : (decoderMove s).zact = s.zact := by
  have h := decoderMove_decoderOnly s
  rw [DecoderOnly] at h
  rw [h]

theorem sendMove_zact (s : State) : (sendMove s).zact = s.zact := by
  obtain ⟨-, -, e⟩ | ⟨-, -, e⟩ | ⟨-, e⟩ := sendMove_cases s <;> rw [e] <;> rfl

/-! ### The shift of one bit into `ZSR`, as numbers (42 R151) -/

theorem toNat_shiftIn (r : Byte) (b : Bool) :
    ((r <<< 1) ||| BitVec.zeroExtend 8 (BitVec.ofBool b)).toNat = (2 * r.toNat + b.toNat) % 256 := by
  revert r b; decide

theorem atMostOneBit_shift {k : Nat} (hk : k < 8) : atMostOneBit ((1 : Byte) <<< k) = true ∧ (1 : Byte) <<< k ≠ 0 := by
  revert k; decide

/-- When the top bits of the mask down to bit `i + 1` stand in the low bits of `ZSR`, the shift of bit `i` brings in
the next one. -/
theorem shiftIn_follows {r m : Byte} {i : Nat} (hi : i < 8)
    (h : r.toNat % 2 ^ (8 - (i + 1)) = m.toNat / 2 ^ (i + 1)) :
    ((r <<< 1) ||| BitVec.zeroExtend 8 (BitVec.ofBool (m.getLsbD i))).toNat % 2 ^ (8 - i) = m.toNat / 2 ^ i := by
  rw [toNat_shiftIn, BitVec.getLsbD, Nat.toNat_testBit]
  have width : 8 - i = (8 - (i + 1)) + 1 := by omega
  have fits : 2 ^ (8 - i) ∣ 256 := Nat.pow_dvd_pow 2 (show 8 - i ≤ 8 by omega)
  rw [Nat.mod_mod_of_dvd _ fits, width, Nat.pow_succ']
  rw [Nat.pow_succ, ← Nat.div_div_eq_div_mul] at h
  have shifted : (2 * r.toNat + m.toNat / 2 ^ i % 2) / 2 = r.toNat := by omega
  rw [Nat.mod_mul, shifted, h]
  omega

theorem isZoneDigit_bounds {b : Byte} (h : isZoneDigit b = true) : 0x31 ≤ b.toNat ∧ b.toNat ≤ 0x38 := by
  simpa [isZoneDigit, Config.zoneDigitLo, Config.zoneDigitHi, BitVec.le_def] using h

/-- The zone registers agree on a mask of at most one bit (30 R89). -/
theorem atMostOneBit_zmask {s : State} (h : zonesAgree s = true) : atMostOneBit s.dev.zmask = true := by
  simp only [zonesAgree, Bool.or_eq_true, Bool.and_eq_true, decide_eq_true_eq] at h
  obtain ⟨-, e⟩ | ⟨digit, e⟩ := h <;> rw [e]
  · rfl
  · have bounds := isZoneDigit_bounds digit
    exact (atMostOneBit_shift (by omega)).1

theorem zoneMask_ne_zero {b : Byte} (digit : isZoneDigit b = true) : zoneMask (zoneNumber b) ≠ 0 := by
  have bounds := isZoneDigit_bounds digit
  exact (atMostOneBit_shift (by unfold zoneNumber; omega)).2

/-! ### The actuator follows the mask, clause by clause -/

/-- The controller is at one of the three waits of `write_zone` (42 R150). -/
def Writing (v : Device) : Prop :=
  v.state = .decodeActuate ∧ (v.pos = .clkHigh ∨ v.pos = .clkLow ∨ v.pos = .latch)

/-- The controller is shifting the bits of the mask out. -/
def Shifting (v : Device) : Prop := v.state = .decodeActuate ∧ (v.pos = .clkHigh ∨ v.pos = .clkLow)

theorem Shifting.writing {v : Device} (h : Shifting v) : Writing v := ⟨h.1, h.2.imp_right .inl⟩

/-- The clauses of `actuatorFollows`. -/
structure Follows (a : Actuator) (v : Device) : Prop where
  oneRelay : atMostOneBit a.zout = true
  index : v.zIdx ≤ 7
  clock : a.zclk = true → v.state = .decodeActuate ∧ v.pos = .clkHigh
  latch : a.zlatch = true → v.state = .decodeActuate ∧ v.pos = .latch
  mask : Writing v → v.zmask ≠ 0
  sent : Shifting v → a.zsr.toNat % 2 ^ (8 - v.zIdx) = v.zmask.toNat / 2 ^ v.zIdx
  rest : ¬ Shifting v → a.zsr = v.zmask ∧ a.zout = v.zmask

theorem inWriteZone_iff (s : State) : inWriteZone s = true ↔ Writing s.dev := by
  simp [inWriteZone, Writing, or_assoc]

theorem actuatorFollows_iff (s : State) : actuatorFollows s = true ↔ Follows s.zact s.dev := by
  have mask : (!inWriteZone s || s.dev.zmask != 0) = true ↔ (Writing s.dev → s.dev.zmask ≠ 0) := by
    rw [← inWriteZone_iff]
    cases inWriteZone s <;> simp
  have phase : (if s.dev.state = .decodeActuate ∧ (s.dev.pos = .clkHigh ∨ s.dev.pos = .clkLow) then
        decide (s.zact.zsr.toNat % 2 ^ (8 - s.dev.zIdx) = s.dev.zmask.toNat / 2 ^ s.dev.zIdx)
      else decide (s.zact.zsr = s.dev.zmask ∧ s.zact.zout = s.dev.zmask)) = true ↔
      (Shifting s.dev → s.zact.zsr.toNat % 2 ^ (8 - s.dev.zIdx) = s.dev.zmask.toNat / 2 ^ s.dev.zIdx)
      ∧ (¬ Shifting s.dev → s.zact.zsr = s.dev.zmask ∧ s.zact.zout = s.dev.zmask) := by
    unfold Shifting
    split <;> simp [*]
  unfold actuatorFollows
  rw [Bool.and_eq_true, Bool.and_eq_true, phase, mask]
  simp only [Bool.and_eq_true, decide_eq_true_eq]
  constructor
  · rintro ⟨⟨⟨⟨⟨oneRelay, index⟩, clock⟩, latch⟩, mask⟩, sent, rest⟩
    exact ⟨oneRelay, index, clock, latch, mask, sent, rest⟩
  · intro h
    exact ⟨⟨⟨⟨⟨h.oneRelay, h.index⟩, h.clock⟩, h.latch⟩, h.mask⟩, h.sent, h.rest⟩

section Follows

variable {a : Actuator} {v w : Device}

theorem Follows.clockLow (h : Follows a v) (hp : v.pos ≠ .clkHigh) : a.zclk = false :=
  Bool.eq_false_iff.2 fun up => hp (h.clock up).2

theorem Follows.latchLow (h : Follows a v) (hp : v.pos ≠ .latch) : a.zlatch = false :=
  Bool.eq_false_iff.2 fun up => hp (h.latch up).2

/-- The actuator follows four registers of the controller and no other. -/
theorem Follows.congr (h : Follows a v) (hs : w.state = v.state) (hp : w.pos = v.pos) (hi : w.zIdx = v.zIdx)
    (hm : w.zmask = v.zmask) : Follows a w := by
  obtain ⟨oneRelay, index, clock, latch, mask, sent, rest⟩ := h
  simp only [Writing, Shifting, ← hs, ← hp, ← hi, ← hm] at *
  exact ⟨oneRelay, index, clock, latch, mask, sent, rest⟩

/-- Outside `write_zone` the actuator rests at the mask with its wires down. -/
theorem Follows.atRest (one : atMostOneBit a.zout = true) (index : w.zIdx ≤ 7) (out : ¬ Writing w)
    (clock : a.zclk = false) (latch : a.zlatch = false) (rest : a.zsr = w.zmask ∧ a.zout = w.zmask) : Follows a w where
  oneRelay := one
  index := index
  clock up := by simp [clock] at up
  latch up := by simp [latch] at up
  mask writing := absurd writing out
  sent shifting := absurd shifting.writing out
  rest _ := rest

/-- A move from outside `write_zone` to outside it leaves the actuator where it is. -/
theorem Follows.outside (h : Follows a v) (hv : ¬ Writing v) (hw : ¬ Writing w) (hi : w.zIdx = v.zIdx)
    (hm : w.zmask = v.zmask) : Follows a w := by
  refine .atRest h.oneRelay (hi ▸ h.index) hw ?_ ?_ (hm ▸ h.rest fun shifting => hv shifting.writing)
  · exact Bool.eq_false_iff.2 fun up => hv ⟨(h.clock up).1, .inl (h.clock up).2⟩
  · exact Bool.eq_false_iff.2 fun up => hv ⟨(h.latch up).1, .inr (.inr (h.latch up).2)⟩

end Follows

/-! ### The moves of `write_zone` (42 R150) -/

section WriteZone

variable {s : State}

/-- Bit `i` presented with a rising clock: the bits from `i` up are sent if those above `i` were. -/
theorem follows_presentBit {i : Nat} (one : atMostOneBit s.zact.zout = true) (hi : i ≤ 7)
    (hs : s.dev.state = .decodeActuate) (clock : s.zact.zclk = false) (latch : s.zact.zlatch = false)
    (mask : s.dev.zmask ≠ 0) (sent : s.zact.zsr.toNat % 2 ^ (8 - (i + 1)) = s.dev.zmask.toNat / 2 ^ (i + 1)) :
    Follows (presentBit i s).zact (presentBit i s).dev := by
  rw [presentBit_zact i clock, presentBit_dev]
  exact {
    oneRelay := one
    index := hi
    clock := fun _ => ⟨hs, rfl⟩
    latch := fun up => by simp [latch] at up
    mask := fun _ => mask
    sent := fun _ => shiftIn_follows (by omega) sent
    rest := fun still => absurd ⟨hs, .inl rfl⟩ still }

/-- A new zone's mask enters the shift with its top bit, whatever `ZSR` holds; the relays wait for the latch. -/
theorem follows_zoneUpdate (h : Follows s.zact s.dev) (hs : s.dev.state = .decodeActuate) (hp : s.dev.pos = .adc) :
    Follows (zoneUpdate s).zact (zoneUpdate s).dev := by
  obtain ⟨digit, e⟩ | ⟨-, e⟩ := zoneUpdate_cases s <;> rw [e]
  · refine follows_presentBit h.oneRelay (le_refl 7) hs (h.clockLow (by simp [hp])) (h.latchLow (by simp [hp]))
      (zoneMask_ne_zero digit) ?_
    have byte := (zoneMask (zoneNumber s.dev.req)).isLt
    simp only [Nat.sub_self, Nat.pow_zero, Nat.mod_one]
    omega
  · exact h.outside (by simp [Writing, hp]) (by simp [Writing, convertAndRespond]) rfl rfl

theorem follows_clockFall (h : Follows s.zact s.dev) (hs : s.dev.state = .decodeActuate) (hp : s.dev.pos = .clkHigh) :
    Follows (clockFall s).zact (clockFall s).dev := by
  rw [clockFall_zact, clockFall_dev]
  exact {
    oneRelay := h.oneRelay
    index := h.index
    clock := fun up => by simp at up
    latch := fun up => by simp [h.latchLow (by simp [hp])] at up
    mask := fun _ => h.mask ⟨hs, .inl hp⟩
    sent := fun _ => h.sent ⟨hs, .inl hp⟩
    rest := fun still => absurd ⟨hs, .inr rfl⟩ still }

/-- With the last bit sent `ZSR` is the mask, and the latch copies it into the relays. -/
theorem follows_latchRise (agree : zonesAgree s = true) (h : Follows s.zact s.dev)
    (hs : s.dev.state = .decodeActuate) (hp : s.dev.pos = .clkLow) (last : s.dev.zIdx = 0) :
    Follows (latchRise s).zact (latchRise s).dev := by
  have whole : s.zact.zsr = s.dev.zmask := by
    have sent := h.sent ⟨hs, .inr hp⟩
    have byte := s.zact.zsr.isLt
    refine BitVec.eq_of_toNat_eq ?_
    simpa [last, Nat.mod_eq_of_lt byte] using sent
  rw [latchRise_zact (h.latchLow (by simp [hp])), latchRise_dev]
  exact {
    oneRelay := whole ▸ atMostOneBit_zmask agree
    index := h.index
    clock := fun up => by simp [h.clockLow (by simp [hp])] at up
    latch := fun _ => ⟨hs, rfl⟩
    mask := fun _ => h.mask ⟨hs, .inr (.inl hp)⟩
    sent := fun shifting => by simp [Shifting] at shifting
    rest := fun _ => ⟨whole, whole⟩ }

theorem follows_nextZoneBit (agree : zonesAgree s = true) (h : Follows s.zact s.dev)
    (hs : s.dev.state = .decodeActuate) (hp : s.dev.pos = .clkLow) :
    Follows (nextZoneBit s).zact (nextZoneBit s).dev := by
  obtain ⟨last, e⟩ | ⟨i, hi, e⟩ := nextZoneBit_cases s <;> rw [e]
  · exact follows_latchRise agree h hs hp last
  · have index := h.index
    have sent := h.sent ⟨hs, .inr hp⟩
    rw [hi] at sent
    exact follows_presentBit h.oneRelay (by omega) hs (h.clockLow (by simp [hp])) (h.latchLow (by simp [hp]))
      (h.mask ⟨hs, .inr (.inl hp)⟩) sent

theorem follows_latchFall (h : Follows s.zact s.dev) (hp : s.dev.pos = .latch) :
    Follows (latchFall s).zact (latchFall s).dev := by
  rw [latchFall_zact, latchFall_dev]
  exact .atRest h.oneRelay h.index (by simp [Writing, convertAndRespond]) (h.clockLow (by simp [hp])) rfl
    (h.rest (by simp [Shifting, hp]))

end WriteZone

/-! ### Every move keeps the actuator following the mask -/

/-- The zone agrees with its mask and the actuator follows the mask. -/
def ZonesFollowed (s : State) : Prop := zonesAgree s = true ∧ Follows s.zact s.dev

theorem zonesFollowed_frame {u v : State} (h : ZonesFollowed u)
    (hv : v.dev = { u.dev with yielded := v.dev.yielded }) (ha : v.zact = u.zact) : ZonesFollowed v := by
  obtain ⟨agree, follows⟩ := h
  refine ⟨zonesAgree_congr (by rw [hv]) (by rw [hv]) agree, ?_⟩
  rw [ha]
  exact follows.congr (by rw [hv]) (by rw [hv]) (by rw [hv]) (by rw [hv])

theorem follows_sendMove {s : State} (h : Follows s.zact s.dev) (hs : s.dev.state = .respond) :
    Follows (sendMove s).zact (sendMove s).dev := by
  rw [sendMove_zact]
  obtain ⟨-, -, e⟩ | ⟨-, -, e⟩ | ⟨-, e⟩ := sendMove_cases s <;> rw [e]
  · exact h.congr rfl rfl rfl rfl
  · exact h.congr rfl rfl rfl rfl
  · exact h.outside (by simp [Writing, hs]) (by simp [Writing]) rfl rfl

theorem follows_deviceMove {s : State} (agree : zonesAgree s = true) (h : Follows s.zact s.dev) :
    Follows (deviceMove s).zact (deviceMove s).dev := by
  refine deviceMove_keeps (P := fun u => Follows u.zact u.dev) (fun _ _ hu => hu.congr rfl rfl rfl rfl)
    (follows_sendMove h) ?result ?decode (follows_zoneUpdate h) (follows_clockFall h) (follows_nextZoneBit agree h)
    (fun _ => follows_latchFall h) h
  case result =>
    intro hs hp _
    rw [takeResult_zact, takeResult_dev]
    exact h.outside (by simp [Writing, hp]) (by simp [Writing]) rfl rfl
  case decode =>
    intro _ _ _
    rw [decoderMove_zact, decoderMove_dev]
    exact h.congr rfl rfl rfl rfl

theorem keptByMoves_zonesFollowed : KeptByMoves ZonesFollowed where
  elapse _ h := zonesFollowed_frame h rfl rfl
  deviceTransmit _ h := zonesFollowed_frame h (by simp) (by simp)
  hostTransmit _ h := zonesFollowed_frame h (by simp) (by simp)
  deviceMove _ h := ⟨zonesAgree_deviceMove h.1, follows_deviceMove h.1 h.2⟩
  hostRun _ h := zonesFollowed_frame h (by simp) (by simp)
  takeReset u h := by
    obtain e | ⟨r, rest, -, -, e⟩ := takeReset_cases u <;> rw [e]
    · exact h
    · cases r.node
      · exact ⟨zonesAgree_resetWith u.cfg, (actuatorFollows_iff _).1 (actuatorFollows_resetWith u.cfg)⟩
      · exact h
  openKey _ h := zonesFollowed_frame h (by simp) (by simp)
  beginCycle _ _ await h :=
    ⟨h.1, h.2.outside (by simp [Writing, await]) (by simp [Writing]) rfl rfl⟩

/-- Settles O47: zone and actuator are one invariant, since the latch hands the relays the mask that the zone
registers agree on. -/
theorem stepKeepsTheActuatorFollowing : Obligations.StepKeepsTheActuatorFollowing := by
  intro s t agree follows hst
  obtain ⟨agree', follows'⟩ := keptByMoves_zonesFollowed.step ⟨agree, (actuatorFollows_iff s).1 follows⟩ hst
  exact ⟨agree', (actuatorFollows_iff t).2 follows', follows'.oneRelay⟩

/-! ### The relays between two ticks (20 R71, 42 R152) -/

/-- The relays of `u` are those of `s`; and if the device still actuates, so it did in `s`, with the latch as it is. -/
def RelaysKept (s u : State) : Prop :=
  u.zact.zout = s.zact.zout
    ∧ (u.dev.state = .decodeActuate → s.dev.state = .decodeActuate ∧ u.zact.zlatch = s.zact.zlatch)

theorem RelaysKept.trans {s u v : State} (h : RelaysKept s u) (k : RelaysKept u v) : RelaysKept s v := by
  refine ⟨k.1.trans h.1, fun actuates => ?_⟩
  obtain ⟨actuated, same⟩ := k.2 actuates
  exact ⟨(h.2 actuated).1, same.trans (h.2 actuated).2⟩

theorem relaysKept_of_state {s u : State} (hs : u.dev.state = s.dev.state) (ho : u.zact.zout = s.zact.zout)
    (hl : u.zact.zlatch = s.zact.zlatch) : RelaysKept s u := ⟨ho, fun actuates => ⟨hs ▸ actuates, hl⟩⟩

theorem relaysKept_waiting {s : State} {k : State → State} (h : RelaysKept s (k s)) : RelaysKept s (waiting k s) := by
  obtain ⟨-, e⟩ | ⟨-, e⟩ := waiting_cases k s <;> rw [e]
  · exact h
  · exact relaysKept_of_state rfl rfl rfl

theorem setZclk_zout (v : Bool) (s : State) : (setZclk v s).zact.zout = s.zact.zout := by rw [setZclk_eq]
theorem setZclk_zlatch (v : Bool) (s : State) : (setZclk v s).zact.zlatch = s.zact.zlatch := by rw [setZclk_eq]

theorem relaysKept_presentBit (i : Nat) (s : State) : RelaysKept s (presentBit i s) :=
  relaysKept_of_state (by simp) (setZclk_zout _ _) (setZclk_zlatch _ _)

theorem relaysKept_zoneUpdate (s : State) : RelaysKept s (zoneUpdate s) := by
  obtain ⟨-, e⟩ | ⟨-, e⟩ := zoneUpdate_cases s <;> rw [e]
  · exact (relaysKept_of_state rfl rfl rfl).trans (relaysKept_presentBit 7 _)
  · exact ⟨rfl, fun actuates => by simp [convertAndRespond] at actuates⟩

theorem relaysKept_sendMove {s : State} (hs : s.dev.state = .respond) : RelaysKept s (sendMove s) := by
  refine ⟨by rw [sendMove_zact], fun actuates => ?_⟩
  obtain ⟨-, -, e⟩ | ⟨-, -, e⟩ | ⟨-, e⟩ := sendMove_cases s <;> rw [e] at actuates <;>
    simp [hs, sendByte] at actuates

/-- Of the moves of the device only the rise of the latch touches the relays (42 R152). -/
theorem relaysKept_or_latchRise (s : State) :
    RelaysKept s (deviceMove s)
    ∨ (s.dev.state = .decodeActuate ∧ s.zact.zlatch = false ∧ deviceMove s = latchRise s) := by
  obtain ⟨-, e⟩ | ⟨-, hs, e⟩
    | ⟨-, hs, ⟨-, -, e⟩ | ⟨-, -, e⟩ | ⟨-, e⟩ | ⟨-, e⟩ | ⟨-, e⟩ | ⟨-, e⟩⟩ := deviceMove_cases s <;> rw [e]
  · exact .inl (relaysKept_of_state rfl rfl rfl)
  · exact .inl (relaysKept_sendMove hs)
  · exact .inl (relaysKept_of_state (by rw [takeResult_dev]) (by simp) (by simp))
  · exact .inl (relaysKept_of_state (by rw [decoderMove_dev]) (by rw [decoderMove_zact]) (by rw [decoderMove_zact]))
  · exact .inl (relaysKept_waiting (relaysKept_zoneUpdate s))
  · exact .inl (relaysKept_waiting (relaysKept_of_state (by simp) rfl rfl))
  · obtain ⟨-, w⟩ | ⟨-, w⟩ := waiting_cases nextZoneBit s <;> rw [w]
    · obtain ⟨-, b⟩ | ⟨i, -, b⟩ := nextZoneBit_cases s <;> rw [b]
      · cases latch : s.zact.zlatch
        · exact .inr ⟨hs, rfl, rfl⟩
        · exact .inl (relaysKept_of_state (by simp) (by simp [latchRise, setZlatch, latch])
            (by simp [latchRise, setZlatch, latch]))
      · exact .inl (relaysKept_presentBit i s)
    · exact .inl (relaysKept_of_state rfl rfl rfl)
  · exact .inl (relaysKept_waiting ⟨rfl, fun actuates => by simp [latchFall, convertAndRespond] at actuates⟩)

/-- The latch is up with `ZSR` at the relays, and the device is at rest there or is about to wait. -/
def LatchHeld (u : State) : Prop :=
  u.zact.zlatch = true ∧ u.zact.zout = u.zact.zsr ∧ u.dev.state = .decodeActuate ∧ u.dev.pos = .latch
    ∧ (u.dev.yielded = true ∨ u.dev.wait ≠ 0)

theorem latchHeld_deviceMove {u : State} (h : LatchHeld u) : LatchHeld (deviceMove u) := by
  obtain ⟨up, copied, hs, hp, yielded | wait⟩ := id h
  · rwa [deviceMove_of_settled (by simp [settled, yielded])]
  · cases hy : u.dev.yielded
    · have move : deviceMove u = yieldTick { u with dev.wait := u.dev.wait - 1 } := by
        simp [deviceMove, hy, hs, hp, waiting, wait]
      rw [move]
      exact ⟨up, copied, hs, hp, .inl rfl⟩
    · rwa [deviceMove_of_settled (by simp [settled, hy])]

theorem latchHeld_latchRise {s : State} (hl : 1 ≤ s.cfg.latchPulseUs) (hs : s.dev.state = .decodeActuate)
    (low : s.zact.zlatch = false) : LatchHeld (latchRise s) := by
  have wait : s.cfg.latchPulseUs ≠ 0 := by omega
  simp [LatchHeld, latchRise_zact low, hs, wait]

/-- Between two ticks the relays are kept, or the latch rises from where it was and stays up. -/
theorem relaysKept_or_latchHeld {s : State} (hl : 1 ≤ s.cfg.latchPulseUs) :
    RelaysKept s (deviceRun s) ∨ (s.zact.zlatch = false ∧ LatchHeld (deviceRun s)) := by
  refine (deviceRun_induct (s := s) (P := fun u => u.cfg = s.cfg
    ∧ (RelaysKept s u ∨ (s.zact.zlatch = false ∧ LatchHeld u))) (fun u => ?_)
    ⟨rfl, .inl (relaysKept_of_state rfl rfl rfl)⟩).2
  rintro ⟨cfg, kept | ⟨low, held⟩⟩
  all_goals refine ⟨(deviceMove_deviceOnly u).cfg.trans cfg, ?_⟩
  · obtain k | ⟨hs, low, e⟩ := relaysKept_or_latchRise u
    · exact .inl (kept.trans k)
    · rw [e]
      exact .inr ⟨(kept.2 hs).2 ▸ low, latchHeld_latchRise (cfg ▸ hl) hs low⟩
  · exact .inr ⟨low, latchHeld_deviceMove held⟩

/-- Settles O20: within a tick only the device program touches the actuator, and its pulse of the latch outlasts the
tick. -/
theorem relaysMoveOnlyAtTheLatch : Obligations.RelaysMoveOnlyAtTheLatch := by
  intro s hc moved
  obtain ⟨-, -, -, -, -, hl, -, -⟩ := (configLegal_iff s.cfg).1 hc
  rw [tick_zact] at moved ⊢
  obtain ⟨same, -⟩ | ⟨low, up, copied, -⟩ := relaysKept_or_latchHeld (s := beforeDevice s) (by simpa using hl)
  · exact absurd (same.trans (by simp)) moved
  · exact ⟨by simpa using low, up, copied⟩

end Sys2Proof.Machine

/-! The sensor's frame and its read: the bytes of a frame, what a read commits, and that it ends within its ticks
(spec/41_sensor_frame_decoder.md R120 to R134, spec/20_memory.md R63, R70). -/

namespace Sys2Proof.Machine

/-! ### A frame put together from its bytes (20 R63, 30 R81) -/

/-- A byte at the low end of a word leaves the bytes above it eight bits higher. -/
theorem extractLsb'_append_byte {n : Nat} (x : BitVec n) (y : Byte) (k : Nat) :
    (x ++ y).extractLsb' (k + 8) 8 = x.extractLsb' k 8 := by
  rw [BitVec.extractLsb'_append_eq_of_le (by omega), Nat.add_sub_cancel]

section FrameBytes

variable (b0 b1 b2 b3 b4 : Byte)

/-- The frame with the bytes `b0` to `b4`, the first one highest. -/
def frameOf : BitVec 40 := b0 ++ b1 ++ b2 ++ b3 ++ b4

@[simp] theorem frameB0_frameOf : frameB0 (frameOf b0 b1 b2 b3 b4) = b0 := by
  show (b0 ++ b1 ++ b2 ++ b3 ++ b4).extractLsb' 32 8 = b0
  rw [extractLsb'_append_byte, extractLsb'_append_byte, extractLsb'_append_byte, extractLsb'_append_byte]
  exact BitVec.extractLsb'_eq_self

@[simp] theorem frameB1_frameOf : frameB1 (frameOf b0 b1 b2 b3 b4) = b1 := by
  show (b0 ++ b1 ++ b2 ++ b3 ++ b4).extractLsb' 24 8 = b1
  rw [extractLsb'_append_byte, extractLsb'_append_byte, extractLsb'_append_byte]
  exact BitVec.extractLsb'_append_eq_right

@[simp] theorem frameB2_frameOf : frameB2 (frameOf b0 b1 b2 b3 b4) = b2 := by
  show (b0 ++ b1 ++ b2 ++ b3 ++ b4).extractLsb' 16 8 = b2
  rw [extractLsb'_append_byte, extractLsb'_append_byte]
  exact BitVec.extractLsb'_append_eq_right

@[simp] theorem frameB3_frameOf : frameB3 (frameOf b0 b1 b2 b3 b4) = b3 := by
  show (b0 ++ b1 ++ b2 ++ b3 ++ b4).extractLsb' 8 8 = b3
  rw [extractLsb'_append_byte]
  exact BitVec.extractLsb'_append_eq_right

@[simp] theorem frameB4_frameOf : frameB4 (frameOf b0 b1 b2 b3 b4) = b4 := by
  show (b0 ++ b1 ++ b2 ++ b3 ++ b4).extractLsb' 0 8 = b4
  exact BitVec.extractLsb'_append_eq_right

/-- Sign and magnitude of the temperature, in the third and the fourth byte (41 R129). -/
theorem frameTemp_frameOf : frameTemp (frameOf b0 b1 b2 b3 b4)
    = (if 128 ≤ b2.toNat then -1 else 1) * (10 * ((b2.toNat % 128 : Nat) : Int) + (b3.toNat : Int)) := by
  have sign : tempSign (frameOf b0 b1 b2 b3 b4) = decide (128 ≤ b2.toNat) := by
    rw [tempSign, frameB2_frameOf]
    exact (BitVec.msb_eq_getLsbD_last b2).symm.trans (BitVec.msb_eq_decide b2)
  simp only [frameTemp, tempInt, sign, frameB2_frameOf, frameB3_frameOf, decide_eq_true_eq]
  split <;> omega

theorem frameHum_frameOf : frameHum (frameOf b0 b1 b2 b3 b4) = 10 * b0.toNat + b1.toNat := by simp [frameHum]

theorem checksumOk_frameOf : checksumOk (frameOf b0 b1 b2 b3 b4) = true ↔
    (b0.toNat + b1.toNat + b2.toNat + b3.toNat) % 256 = b4.toNat := by simp [checksumOk]

end FrameBytes

/-- Settles O6: checksum, temperature and humidity read off the bytes of the frame. -/
theorem fiveByteFrameDecodes : Obligations.FiveByteFrameDecodes := by
  intro b0 b1 b2 b3 b4
  show decodeFrame (frameOf b0 b1 b2 b3 b4) = _
  simp only [decodeFrame, checksumOk_frameOf, frameTemp_frameOf, frameHum_frameOf]

/-! ### What is left of a read (41 R134) -/

/-- The measurements of a read that come after the present phase. -/
def phasesLeft (c : Config) (d : Decoder) : Nat :=
  match d.state with
  | .start => 2 * c.nBits + 3
  | .waitResp => 2 * c.nBits + 2
  | .ackLow => 2 * c.nBits + 1
  | .ackHigh => 2 * c.nBits
  | .bitLow => 2 * (c.nBits - d.bitIdx) - 1
  | .bitHigh => 2 * (c.nBits - d.bitIdx) - 2
  | .idle | .check | .done => 0

/-- The ticks that the present phase can still count. -/
def phaseLeft (c : Config) (d : Decoder) : Nat :=
  match d.state with
  | .start => c.tStartUs - d.startCnt
  | .waitResp | .ackLow | .ackHigh | .bitLow | .bitHigh => c.timerBoundUs - d.tmrCnt
  | .idle | .check | .done => 0

/-- A state in which the decoder measures the wire (40 R110). -/
def DecState.measures (d : DecState) : Bool :=
  match d with
  | .waitResp | .ackLow | .ackHigh | .bitLow | .bitHigh => true
  | .idle | .start | .check | .done => false

theorem phaseLeft_of_measures {c : Config} {d : Decoder} (h : d.state.measures = true) :
    phaseLeft c d = c.timerBoundUs - d.tmrCnt := by
  cases hd : d.state <;> simp_all [phaseLeft, DecState.measures]

/-- The ticks that a read can still take. -/
def readLeft (s : State) : Nat := phaseLeft s.cfg s.dec + phasesLeft s.cfg s.dec * s.cfg.timerBoundUs

theorem ne_of_measures {d : DecState} (h : d.measures = true) : d ≠ .idle ∧ d ≠ .done := by
  constructor <;> rintro rfl <;> simp [DecState.measures] at h

/-- A measurement called with fewer phases to come uses up one of them. -/
theorem readLeft_measureStart_le {d : DecState} (hd : d.measures = true) {s : State} {n : Nat}
    (fewer : phasesLeft s.cfg { s.dec with state := d } < n) :
    readLeft (measureStart d s) ≤ n * s.cfg.timerBoundUs := by
  have phase : phaseLeft s.cfg (measureStart d s).dec = s.cfg.timerBoundUs := phaseLeft_of_measures hd
  have same : phasesLeft s.cfg (measureStart d s).dec = phasesLeft s.cfg { s.dec with state := d } := rfl
  calc readLeft (measureStart d s)
      = (phasesLeft s.cfg { s.dec with state := d } + 1) * s.cfg.timerBoundUs := by
        rw [readLeft, measureStart_cfg, phase, same, Nat.succ_mul, Nat.add_comm]
    _ ≤ n * s.cfg.timerBoundUs := Nat.mul_le_mul_right _ fewer

/-! ### A move of a running read (20 R70; 41 R120 to R131) -/

/-- The held temperature, humidity and validity of `e` are those of `d`. -/
def HeldAs (d e : Decoder) : Prop :=
  e.tempTenths = d.tempTenths ∧ e.humTenths = d.humTenths ∧ e.tempValid = d.tempValid

theorem HeldAs.refl (d : Decoder) : HeldAs d d := ⟨rfl, rfl, rfl⟩

theorem HeldAs.trans {d e f : Decoder} (h : HeldAs d e) (k : HeldAs e f) : HeldAs d f := by
  obtain ⟨temp, hum, valid⟩ := h
  obtain ⟨temp', hum', valid'⟩ := k
  exact ⟨temp'.trans temp, hum'.trans hum, valid'.trans valid⟩

/-- From `s` the read of `u` has committed nothing: it goes on or ended in an error, and every tick it reached is one
less that it can take. -/
structure ReadGoesOn (s u : State) : Prop where
  held : HeldAs s.dec u.dec
  reads : u.dec.state ≠ .idle
  fails : u.dec.state = .done → u.dec.result ≠ .ok
  left : readLeft u + u.dev.yielded.toNat ≤ readLeft s + s.dev.yielded.toNat

section DecoderMove

variable {s u : State}

theorem readGoesOn_of_phase (held : HeldAs s.dec u.dec) (idle : u.dec.state ≠ .idle) (done : u.dec.state ≠ .done)
    (hy : u.dev.yielded = s.dev.yielded) (left : readLeft u ≤ phasesLeft s.cfg s.dec * s.cfg.timerBoundUs) :
    ReadGoesOn s u where
  held := held
  reads := idle
  fails ended := absurd ended done
  left := by rw [hy]; unfold readLeft at left ⊢; omega

theorem readGoesOn_measureStart {d : DecState} (hd : d.measures = true)
    (fewer : phasesLeft s.cfg { s.dec with state := d } < phasesLeft s.cfg s.dec) :
    ReadGoesOn s (measureStart d s) :=
  readGoesOn_of_phase (.refl _) (ne_of_measures hd).1 (ne_of_measures hd).2 rfl (readLeft_measureStart_le hd fewer)

/-- The head of the loop over the bits, with two phases to come for each bit that is missing. -/
theorem readGoesOn_nextBit (hc : u.cfg = s.cfg) (held : HeldAs s.dec u.dec) (hy : u.dev.yielded = s.dev.yielded)
    (bits : 2 * (s.cfg.nBits - u.dec.bitIdx) ≤ phasesLeft s.cfg s.dec) : ReadGoesOn s (nextBit u) := by
  obtain ⟨more, e⟩ | ⟨-, e⟩ := nextBit_cases u <;> rw [e]
  · refine readGoesOn_of_phase held (by simp) (by simp) hy ?_
    rw [hc] at more
    rw [← hc]
    refine readLeft_measureStart_le rfl ?_
    rw [hc]
    simp only [phasesLeft] at bits ⊢
    omega
  · exact readGoesOn_of_phase held (by simp) (by simp) hy (by simp [readLeft, phaseLeft, phasesLeft])

/-- A read that ends in an error commits nothing. -/
theorem readGoesOn_finishRead {r : DecResult} (hr : r ≠ .ok) : ReadGoesOn s (finishRead r s) where
  held := .refl _
  reads := by simp
  fails _ := hr
  left := by simp [readLeft, phaseLeft, phasesLeft]

/-- A start signal below its length reaches the next tick; at its length it goes over to the first measurement. -/
theorem readGoesOn_startSignal (hd : s.dec.state = .start) : ReadGoesOn s (startSignal s) := by
  obtain ⟨below, e⟩ | ⟨-, e⟩ := startSignal_cases s <;> rw [e]
  · refine ⟨.refl _, by simp [hd], by simp [hd], ?_⟩
    simp only [readLeft, phaseLeft, phasesLeft, hd, yieldTick_cfg, yieldTick_dec, yieldTick_dev, Bool.toNat_true]
    omega
  · refine readGoesOn_of_phase (.refl _) (by simp) (by simp) rfl (readLeft_measureStart_le rfl ?_)
    simp [phasesLeft, hd]

/-- A measurement that counts on reaches the next tick below its bound. -/
theorem readGoesOn_measureCount (measures : s.dec.state.measures = true) (below : s.dec.tmrCnt < s.cfg.timerBoundUs) :
    ReadGoesOn s (measureCount s) where
  held := .refl _
  reads := (ne_of_measures measures).1
  fails done := absurd done (ne_of_measures measures).2
  left := by
    have phase : phaseLeft s.cfg (measureCount s).dec = s.cfg.timerBoundUs - (s.dec.tmrCnt + 1) :=
      phaseLeft_of_measures measures
    have phases : phasesLeft s.cfg (measureCount s).dec = phasesLeft s.cfg s.dec := rfl
    rw [readLeft, readLeft, measureCount_cfg, phase, phases, phaseLeft_of_measures measures]
    simp only [measureCount_dev, Bool.toNat_true]
    omega

/-- A measurement counts on, fails, or returns, and what follows it goes on. -/
theorem readGoesOn_onMeasure (measures : s.dec.state.measures = true) {level : Level} {fail : DecResult}
    (hf : fail ≠ .ok) {go : Nat → State → State} (hgo : ∀ d, ReadGoesOn s (go d s)) :
    ReadGoesOn s (onMeasure (measurePoll level s) fail go s) := by
  obtain ⟨poll, e⟩ | ⟨d, -, e⟩ | ⟨-, e⟩ := onMeasure_cases (measurePoll level s) fail go s <;> rw [e]
  · exact readGoesOn_measureCount measures (measurePoll_none poll).1
  · exact hgo d
  · exact readGoesOn_finishRead hf

/-- A move of a running read commits a whole good frame, or commits nothing and goes on (20 R70; 41 R120). -/
theorem decoderMove_commits_or_goesOn (place : decoderInPlace s = true) (idle : s.dec.state ≠ .idle)
    (done : s.dec.state ≠ .done) :
    (s.dec.bitIdx = s.cfg.nBits ∧ checksumOk s.dec.frame = true ∧ decoderMove s = finishRead .ok (commitFrame s))
    ∨ ReadGoesOn s (decoderMove s) := by
  obtain ⟨-, bits⟩ := bitsFit_of_inPlace place
  obtain ⟨hd, e⟩ | ⟨hd, e⟩ | ⟨hd, e⟩ | ⟨hd, e⟩ | ⟨hd, e⟩ | ⟨hd, e⟩ | ⟨hd, e⟩ | ⟨hd, e⟩ | ⟨hd, e⟩ :=
    decoderMove_cases s <;> rw [e] <;> simp only [hd] at bits
  · exact absurd hd idle
  · exact .inr (readGoesOn_startSignal hd)
  · refine .inr (readGoesOn_onMeasure (by rw [hd]; rfl) (by simp) fun _ => ?_)
    exact readGoesOn_measureStart rfl (by simp [phasesLeft, hd])
  · refine .inr (readGoesOn_onMeasure (by rw [hd]; rfl) (by simp) fun _ => ?_)
    exact readGoesOn_measureStart rfl (by simp [phasesLeft, hd])
  · refine .inr (readGoesOn_onMeasure (by rw [hd]; rfl) (by simp) fun _ => ?_)
    exact readGoesOn_nextBit rfl (.refl _) rfl (by simp [phasesLeft, hd])
  · refine .inr (readGoesOn_onMeasure (by rw [hd]; rfl) (by simp) fun _ => ?_)
    exact readGoesOn_measureStart rfl (by simp only [phasesLeft, hd]; omega)
  · refine .inr (readGoesOn_onMeasure (by rw [hd]; rfl) (by simp) fun _ => ?_)
    exact readGoesOn_nextBit rfl (HeldAs.refl s.dec) rfl (by simp only [phasesLeft, hd, shiftBit_dec]; omega)
  · obtain ⟨good, e⟩ | ⟨-, e⟩ := checkFrame_cases s <;> rw [e]
    · exact .inl ⟨bits, good, rfl⟩
    · exact .inr (readGoesOn_finishRead (by simp))
  · exact absurd hd done

end DecoderMove

/-! ### Every other move of the device leaves the held values (20 R70) -/

/-- The device is inside `read_sensor`. -/
def InRead (v : Device) : Prop := v.state = .decodeActuate ∧ v.pos = .read

/-- Outside `read_sensor` no move of the device calls the decoder. -/
theorem deviceMove_outside {s : State} (out : ¬ InRead s.dev) :
    (deviceMove s).dec = s.dec ∧ ¬ InRead (deviceMove s).dev := by
  refine deviceMove_keeps (P := fun u => u.dec = s.dec ∧ ¬ InRead u.dev) (fun _ _ h => h) ?send
    (fun hs hp _ => absurd ⟨hs, hp⟩ out) (fun hs hp _ => absurd ⟨hs, hp⟩ out) ?zone ?fall ?bit ?latch ⟨rfl, out⟩
  case send =>
    intro hs
    refine ⟨sendMove_dec s, ?_⟩
    obtain ⟨-, -, e⟩ | ⟨-, -, e⟩ | ⟨-, e⟩ := sendMove_cases s <;> rw [e] <;> simp [InRead, hs, sendByte]
  case zone =>
    intro _ _
    refine ⟨zoneUpdate_dec s, ?_⟩
    obtain ⟨-, e⟩ | ⟨-, e⟩ := zoneUpdate_cases s <;> rw [e] <;> simp [InRead, convertAndRespond]
  case fall => intro _ _; simp [InRead]
  case bit =>
    intro _ _
    refine ⟨nextZoneBit_dec s, ?_⟩
    obtain ⟨-, e⟩ | ⟨i, -, e⟩ := nextZoneBit_cases s <;> rw [e] <;> simp [InRead]
  case latch => intro _ _; exact ⟨latchFall_dec s, by simp [latchFall, InRead, convertAndRespond]⟩

/-- Inside `read_sensor` the device rests, takes the result of the read that is over, or moves the decoder. -/
theorem deviceMove_inRead {s : State} (reads : InRead s.dev) :
    (s.dev.yielded = true ∧ deviceMove s = s)
    ∨ (s.dev.yielded = false ∧ s.dec.state = .done ∧ deviceMove s = takeResult s)
    ∨ (s.dev.yielded = false ∧ s.dec.state ≠ .done ∧ deviceMove s = decoderMove s) := by
  obtain ⟨hs, hp⟩ := reads
  cases hy : s.dev.yielded
  · by_cases hd : s.dec.state = .done
    · exact .inr (.inl ⟨rfl, hd, by simp [deviceMove, hy, hs, hp, hd]⟩)
    · exact .inr (.inr ⟨rfl, hd, by simp [deviceMove, hy, hs, hp, hd]⟩)
  · exact .inl ⟨rfl, deviceMove_of_settled (by simp [settled, hy])⟩

/-- Settles O16: of the moves of the device only those of a running read can commit, and they commit all or nothing. -/
theorem holdingRegistersCommitTogether : Obligations.HoldingRegistersCommitTogether := by
  intro s place
  by_cases reads : InRead s.dev
  swap
  · rw [(deviceMove_outside reads).1]
    exact .inl ⟨rfl, rfl, rfl⟩
  obtain ⟨-, e⟩ | ⟨-, -, e⟩ | ⟨-, done, e⟩ := deviceMove_inRead reads <;> rw [e]
  · exact .inl ⟨rfl, rfl, rfl⟩
  · rw [takeResult_dec]
    exact .inl (HeldAs.refl s.dec)
  by_cases idle : s.dec.state = .idle
  · rw [show decoderMove s = startRead s by simp only [decoderMove, idle]]
    exact .inl (HeldAs.refl s.dec)
  obtain ⟨bits, good, e⟩ | goesOn := decoderMove_commits_or_goesOn place idle done
  · rw [e]
    exact .inr ⟨bits, good, rfl, toInt_frameTemp _, toNat_frameHum _, rfl⟩
  · exact .inl goesOn.held

/-! ### The read of a cycle ends within its ticks (41 R120, R134; 44 R183) -/

/-- What a read that began with the held values of `s` leaves in the decoder: the values of its frame if it ended `Ok`,
and those of `s` otherwise. -/
def ReadOutcome (s : State) (d : Decoder) : Prop :=
  if d.result = .ok then
    d.bitIdx = s.cfg.nBits ∧ d.tempValid = true ∧ decodeFrame d.frame = some ⟨d.tempTenths.toInt, d.humTenths.toNat⟩
  else HeldAs s.dec d

theorem readOutcome_of_error {s : State} {d : Decoder} (hr : d.result ≠ .ok) (held : HeldAs s.dec d) :
    ReadOutcome s d := by rwa [ReadOutcome, if_neg hr]

theorem readOutcome_commit {s u : State} (bits : u.dec.bitIdx = s.cfg.nBits) (good : checksumOk u.dec.frame = true) :
    ReadOutcome s (finishRead .ok (commitFrame u)).dec := by
  rw [ReadOutcome, if_pos (by rfl)]
  refine ⟨bits, rfl, ?_⟩
  simp only [finishRead_dec, commitFrame_dec, toInt_frameTemp, toNat_frameHum, decodeFrame, good, if_true]

/-- The read is running, with nothing committed since `s`, and has at most `n` ticks left after the one it reached. -/
structure ReadRunning (s : State) (n : Nat) (u : State) : Prop where
  inRead : InRead u.dev
  idle : u.dec.state ≠ .idle
  done : u.dec.state ≠ .done
  held : HeldAs s.dec u.dec
  left : readLeft u + u.dev.yielded.toNat ≤ n

/-- The read is over: its outcome stands, and the device is about to take it or has left `read_sensor`. -/
def ReadOver (s u : State) : Prop := ReadOutcome s u.dec ∧ (u.dec.state = .done ∨ ¬ InRead u.dev)

/-- The read that began at `s` is over or has at most `n` ticks left. -/
structure ReadWithin (s : State) (n : Nat) (u : State) : Prop where
  cfg : u.cfg = s.cfg
  place : decoderInPlace u = true
  read : ReadRunning s n u ∨ ReadOver s u

section ReadWithin

variable {s u : State} {n : Nat}

theorem readOver_deviceMove (h : ReadOver s u) : ReadOver s (deviceMove u) := by
  obtain ⟨outcome, ended⟩ := id h
  by_cases reads : InRead u.dev
  · obtain ⟨-, e⟩ | ⟨-, -, e⟩ | ⟨-, done, -⟩ := deviceMove_inRead reads
    · rwa [e]
    · rw [e]
      refine ⟨by rw [takeResult_dec]; exact outcome, .inr ?_⟩
      rw [takeResult_dev]
      simp [InRead]
    · exact absurd reads (ended.resolve_left done)
  · obtain ⟨same, out⟩ := deviceMove_outside reads
    exact ⟨same ▸ outcome, .inr out⟩

theorem reading_deviceMove (hc : u.cfg = s.cfg) (place : decoderInPlace u = true) (h : ReadRunning s n u) :
    ReadRunning s n (deviceMove u) ∨ ReadOver s (deviceMove u) := by
  obtain ⟨-, e⟩ | ⟨-, done, -⟩ | ⟨-, -, e⟩ := deviceMove_inRead h.inRead
  · rw [e]; exact .inl h
  · exact absurd done h.done
  rw [e]
  obtain ⟨bits, good, e⟩ | goesOn := decoderMove_commits_or_goesOn place h.idle h.done
  · rw [e]
    exact .inr ⟨readOutcome_commit (hc ▸ bits) good, .inl rfl⟩
  · have held := h.held.trans goesOn.held
    by_cases done : (decoderMove u).dec.state = .done
    · exact .inr ⟨readOutcome_of_error (goesOn.fails done) held, .inl done⟩
    · refine .inl ⟨?_, goesOn.reads, done, held, goesOn.left.trans h.left⟩
      rw [decoderMove_dev]
      exact h.inRead

theorem readWithin_deviceRun (h : ReadWithin s n u) : ReadWithin s n (deviceRun u) := by
  refine deviceRun_induct (P := ReadWithin s n) (fun v hv => ?_) h
  refine ⟨(deviceMove_deviceOnly v).cfg.trans hv.cfg, decoderInPlace_deviceMove hv.place, ?_⟩
  obtain reading | ended := hv.read
  · exact reading_deviceMove hv.cfg hv.place reading
  · exact .inr (readOver_deviceMove ended)

theorem readWithin_congr {v : State} (h : ReadWithin s n u) (hc : v.cfg = u.cfg) (hd : v.dec = u.dec)
    (hv : v.dev = u.dev) : ReadWithin s n v where
  cfg := hc.trans h.cfg
  place := decoderInPlace_congr h.place hc (by simp [hd]) (by simp [hv])
  read := by
    refine h.read.imp (fun r => ⟨hv ▸ r.inRead, hd ▸ r.idle, hd ▸ r.done, hd ▸ r.held, ?_⟩) fun ended => ?_
    · simpa only [readLeft, hc, hd, hv] using r.left
    · simpa only [ReadOver, hd, hv] using ended

/-- A read that is running while the device rests has reached a tick. -/
theorem ReadRunning.yielded (h : ReadRunning s n u) (rest : settled u = true) : u.dev.yielded = true := by
  simpa [settled, h.inRead.1] using rest

/-- Time takes one tick from a read whose device rests. -/
theorem readWithin_elapse (rest : settled u = true) (h : ReadWithin s (n + 1) u) : ReadWithin s n (elapse u) where
  cfg := h.cfg
  place := decoderInPlace_congr h.place rfl ⟨rfl, rfl, rfl⟩ ⟨rfl, rfl⟩
  read := h.read.imp_left fun r => by
    refine ⟨r.inRead, r.idle, r.done, r.held, ?_⟩
    have left := r.left
    rw [r.yielded rest] at left
    exact Nat.le_of_succ_le_succ left

/-- The tick of a running cycle, with the keys due before it, is one tick of the read. -/
theorem readWithin_advance (legal : configLegal u.cfg = true) (noRst : noReset u = true) (rest : settled u = true)
    (h : ReadWithin s (n + 1) u) :
    settled (advance (pollInputs u)) = true ∧ ReadWithin s n (advance (pollInputs u)) := by
  have polled : SameDevice (pollInputs u) u := by rw [pollInputs_of_noReset noRst]; exact sameDevice_takeKey u
  have same := sameDevice_advance (noReset_pollInputs noRst)
  have before : ReadWithin s (n + 1) (pollInputs u) := readWithin_congr h polled.cfg polled.dec polled.dev
  have rested : settled (pollInputs u) = true := by rwa [settled, polled.dev]
  have sent : ReadWithin s n (deviceTransmit (elapse (pollInputs u))) :=
    readWithin_congr (readWithin_elapse rested before) (by simp) (by simp) (by simp)
  refine ⟨?_, readWithin_congr (readWithin_deviceRun sent) same.cfg same.dec same.dev⟩
  rw [settled, same.dev]
  exact deviceRun_settles _ (by simpa using legal)

/-- A cycle with fuel for its read ends with the read over. -/
theorem readOver_runToAwait (n : Nat) (legal : configLegal u.cfg = true) (noRst : noReset u = true)
    (rest : settled u = true) (h : ReadWithin s n u) : ReadOver s (runToAwait n u) := by
  induction n generalizing u with
  | zero =>
    refine h.read.resolve_left fun r => ?_
    have left := r.left
    rw [r.yielded rest] at left
    exact absurd left (by simp)
  | succ n ih =>
    unfold runToAwait
    split
    · next await => exact h.read.resolve_left fun r => by simp [r.inRead.1] at await
    · obtain ⟨rest', h'⟩ := readWithin_advance legal noRst rest h
      exact ih (by simpa using legal) (noReset_advance (noReset_pollInputs noRst)) rest' h'

end ReadWithin

/-- The fetch of a request begins a read, which the bound of the cycle leaves room for (41 R121, R134). -/
theorem readWithin_beginCycle (b : Byte) (s : State) : ReadWithin s (cycleBound s) (beginCycle b s) where
  cfg := rfl
  place := (decoderInPlace_iff _).2 ⟨fun _ => rfl, fun _ => ⟨rfl, rfl⟩, by simp [BitsFit]⟩
  read := by
    refine .inl ⟨⟨rfl, rfl⟩, by simp, by simp, ⟨rfl, rfl, rfl⟩, ?_⟩
    have cfg : (beginCycle b s).cfg = s.cfg := rfl
    simp only [readLeft, phaseLeft, phasesLeft, beginCycle_dec, beginCycle_dev, cfg, Bool.toNat_false, cycleBound,
      Nat.add_comm (2 * s.cfg.nBits) 3]
    omega

/-- Settles O25: the cycle ends with its read over, and `ReadOutcome` is what the statement says of it. -/
theorem failedReadKeepsTheHeldValues : Obligations.FailedReadKeepsTheHeldValues := by
  intro b s legal noRst
  have noRst' : noReset (deviceRun (beginCycle b s)) = true := by
    rw [noReset, (deviceRun_deviceOnly _).resets]
    exact noRst
  have legal' : configLegal (deviceRun (beginCycle b s)).cfg = true := by rw [deviceRun_cfg]; exact legal
  obtain ⟨outcome, -⟩ := readOver_runToAwait (cycleBound s) legal' noRst' (deviceRun_settles (beginCycle b s) legal)
    (readWithin_deviceRun (readWithin_beginCycle b s))
  exact outcome

end Sys2Proof.Machine

/-! The serial side of the device: the word placed for the fetch, and the bytes of a response in their order
(spec/20_memory.md R64, R72). -/

namespace Sys2Proof.Machine

/-! ### The word placed for the fetch (20 R72, 44 R181) -/

/-- A word of at least a byte is read as the request in its first byte (30 R84; logs 8, 23). -/
theorem decodeTableWord_of_byte {n : Nat} (hn : 8 ≤ n) (w : Nat) :
    decodeTableWord n w = some (decodeRequest (BitVec.ofNat 8 w)) := if_neg (by omega)

/-- Settles O57: the placed word is a pending request, and the step decodes its byte as the table does. -/
theorem placedWordIsRunNext : Obligations.PlacedWordIsRunNext := by
  intro s n w i hc hn hi
  obtain rfl : decodeRequest (BitVec.ofNat 8 w) = i := by simpa [decodeTableWord_of_byte hn] using hi
  exact step_of_request hc (by simp [requestPending])

/-! ### The device's transmitter within a tick (43 R161) -/

theorem beforeDevice_txReady (s : State) :
    (beforeDevice s).duart.txReady = (deviceTransmit (elapse s)).duart.txReady := by
  rw [beforeDevice, hostTransmit_eq]

theorem beforeDevice_txRemain (s : State) :
    (beforeDevice s).duart.txRemain = (deviceTransmit (elapse s)).duart.txRemain := by
  rw [beforeDevice, hostTransmit_eq]

/-- A byte in flight with more than a tick to go stays in flight. -/
theorem beforeDevice_of_flight {s : State} (busy : s.duart.txReady = false) (left : 1 < s.duart.txRemain) :
    (beforeDevice s).duart.txReady = false ∧ (beforeDevice s).duart.txRemain = s.duart.txRemain - 1 := by
  obtain ⟨ready, -⟩ | ⟨-, last, -⟩ | ⟨-, -, e⟩ := deviceTransmit_cases (elapse s)
  · exact absurd ready (by simp [busy])
  · exact absurd last (by simpa using left)
  · rw [beforeDevice_txReady, beforeDevice_txRemain, e]
    exact ⟨busy, rfl⟩

/-- The last tick of a flight frees the transmitter. -/
theorem beforeDevice_of_landing {s : State} (last : s.duart.txRemain ≤ 1) : (beforeDevice s).duart.txReady = true := by
  rw [beforeDevice_txReady]
  obtain ⟨ready, e⟩ | ⟨-, -, e⟩ | ⟨-, more, -⟩ := deviceTransmit_cases (elapse s)
  · rwa [e]
  · rw [e, deliverD2H_eq]; rfl
  · exact absurd last (by simpa using more)

/-! ### The device program in `Respond` (43 R160, 44 R189) -/

section Respond

variable {u : State}

theorem deviceMove_of_respond (hs : u.dev.state = .respond) (hy : u.dev.yielded = false) :
    deviceMove u = sendMove u := by simp [deviceMove, hs, hy]

theorem sendMove_of_free (more : u.dev.txIdx < u.dev.txLen) (free : u.duart.txReady = true) :
    sendMove u = { sendByte ((u.dev.txMsg[u.dev.txIdx]?).getD 0) u with dev.txIdx := u.dev.txIdx + 1 } := by
  simp [sendMove, more, free]

theorem sendMove_of_busy (more : u.dev.txIdx < u.dev.txLen) (busy : u.duart.txReady = false) :
    sendMove u = yieldTick u := by simp [sendMove, more, busy]

theorem sendMove_of_end (sent : u.dev.txLen ≤ u.dev.txIdx) :
    sendMove u = { u with dev.state := .awaitRequest } := if_neg (by omega)

/-- A device with more to send waits for a busy transmitter. -/
theorem deviceRun_of_busy (hs : u.dev.state = .respond) (hy : u.dev.yielded = false)
    (more : u.dev.txIdx < u.dev.txLen) (busy : u.duart.txReady = false) : deviceRun u = yieldTick u := by
  show deviceMoves 11 (deviceMove u) = _
  rw [deviceMove_of_respond hs hy, sendMove_of_busy more busy]
  exact deviceMoves_of_settled 11 (by simp [settled])

/-- A device with a free transmitter hands it one byte, and then waits for it or, after the last byte, for a request. -/
theorem deviceRun_of_free (hs : u.dev.state = .respond) (hy : u.dev.yielded = false)
    (more : u.dev.txIdx < u.dev.txLen) (free : u.duart.txReady = true) :
    deviceRun u = if u.dev.txIdx + 1 = u.dev.txLen then { sendMove u with dev.state := .awaitRequest }
      else yieldTick (sendMove u) := by
  have run : deviceRun u = deviceMoves 10 (sendMove (sendMove u)) := by
    show deviceMoves 10 (deviceMove (deviceMove u)) = _
    rw [deviceMove_of_respond hs hy, deviceMove_of_respond] <;> simp [sendMove_of_free more free, sendByte, hs, hy]
  rw [run]
  split
  · next last =>
    rw [sendMove_of_end (u := sendMove u) (by simp [sendMove_of_free more free, sendByte, last])]
    exact deviceMoves_of_settled 10 (by simp [settled])
  · next notLast =>
    have rest : u.dev.txIdx + 1 < u.dev.txLen := by omega
    rw [sendMove_of_busy (u := sendMove u) (by simpa [sendMove_of_free more free, sendByte] using rest)
      (by simp [sendMove_of_free more free, sendByte])]
    exact deviceMoves_of_settled 10 (by simp [settled])

end Respond

/-! ### The response on the line (20 R64) -/

/-- Byte `k` of the response of `s` has been in `TXD` for `m` ticks. -/
structure Sending (s : State) (k m : Nat) (t : State) : Prop where
  cfg : t.cfg = s.cfg
  byte : s.dev.txMsg[k]? = some t.duart.txd
  idx : t.dev.txIdx = k + 1
  busy : t.duart.txReady = false
  left : t.duart.txRemain = s.cfg.byteTimeUs - m
  state : t.dev.state = if k + 1 = s.dev.txLen then .awaitRequest else .respond
  msg : t.dev.txMsg = s.dev.txMsg
  len : t.dev.txLen = s.dev.txLen

section Sending

variable {s t : State} {k m : Nat}

theorem Sending.congr {u v : State} (h : Sending s k m u) (hc : v.cfg = u.cfg)
    (hd : v.dev = { u.dev with yielded := v.dev.yielded }) (hu : v.duart = u.duart) : Sending s k m v where
  cfg := hc.trans h.cfg
  byte := hu ▸ h.byte
  idx := by rw [hd]; exact h.idx
  busy := hu ▸ h.busy
  left := hu ▸ h.left
  state := by rw [hd]; exact h.state
  msg := by rw [hd]; exact h.msg
  len := by rw [hd]; exact h.len

/-- A device of `s` about to send byte `k`, its transmitter free. -/
theorem sending_of_free {u : State} (hc : u.cfg = s.cfg) (hs : u.dev.state = .respond) (hy : u.dev.yielded = false)
    (idx : u.dev.txIdx = k) (msg : u.dev.txMsg = s.dev.txMsg) (len : u.dev.txLen = s.dev.txLen)
    (more : k < s.dev.txLen) (fits : s.dev.txLen ≤ s.dev.txMsg.length) (free : u.duart.txReady = true) :
    Sending s k 0 (deviceRun u) := by
  have more' : u.dev.txIdx < u.dev.txLen := by omega
  have byte : s.dev.txMsg[k]? = some ((s.dev.txMsg[k]?).getD 0) := by
    rw [List.getElem?_eq_getElem (by omega)]
    rfl
  have sent : Sending s k 0
      { sendMove u with dev.state := if k + 1 = s.dev.txLen then .awaitRequest else .respond } := by
    rw [sendMove_of_free more' free, idx, msg]
    exact ⟨hc, byte, rfl, rfl, congrArg Config.byteTimeUs hc, rfl, msg, len⟩
  rw [deviceRun_of_free hs hy more' free, idx, len]
  split
  · next last => simpa [last] using sent
  · next notLast =>
    refine sent.congr rfl ?_ rfl
    simp [notLast, sendMove_of_free more' free, sendByte, hs]

/-- Within its byte time the byte stays in `TXD`, and the device waits. -/
theorem sending_tick (h : Sending s k m t) (more : k < s.dev.txLen) (hm : m + 1 < s.cfg.byteTimeUs) :
    Sending s k (m + 1) (tick t) := by
  have long : 1 < t.duart.txRemain := by rw [h.left]; omega
  obtain ⟨busy, left⟩ := beforeDevice_of_flight h.busy long
  have before : Sending s k (m + 1) (beforeDevice t) := {
    cfg := by rw [beforeDevice_cfg, h.cfg]
    byte := by rw [beforeDevice_txd, h.byte]
    idx := by rw [beforeDevice_dev, h.idx]
    busy := busy
    left := by rw [left, h.left, Nat.sub_sub]
    state := by rw [beforeDevice_dev, h.state]
    msg := by rw [beforeDevice_dev, h.msg]
    len := by rw [beforeDevice_dev, h.len] }
  have ran : Sending s k (m + 1) (deviceRun (beforeDevice t)) := by
    by_cases last : k + 1 = s.dev.txLen
    · rwa [deviceRun_of_awaiting (by rw [before.state, if_pos last])]
    · rw [deviceRun_of_busy (by rw [before.state, if_neg last]) (by simp) (by rw [before.idx, before.len]; omega) busy]
      exact before.congr rfl rfl rfl
  exact ran.congr (by simp) (by rw [tick_dev]) (tick_duart t)

/-- At the end of a byte time the device hands over the next byte. -/
theorem sending_next (h : Sending s k m t) (hm : m + 1 = s.cfg.byteTimeUs) (more : k + 1 < s.dev.txLen)
    (fits : s.dev.txLen ≤ s.dev.txMsg.length) : Sending s (k + 1) 0 (tick t) := by
  have last : t.duart.txRemain ≤ 1 := by rw [h.left]; omega
  have responds : t.dev.state = .respond := by rw [h.state, if_neg (by omega)]
  have sent : Sending s (k + 1) 0 (deviceRun (beforeDevice t)) :=
    sending_of_free (by simp [h.cfg]) (by simp [responds]) (by simp) (by simp [h.idx]) (by simp [h.msg])
      (by simp [h.len]) more fits (beforeDevice_of_landing last)
  exact sent.congr (by simp) (by rw [tick_dev]) (tick_duart t)

/-- From the first byte on, byte by byte and tick by tick. -/
theorem sending_ticks (legal : 1 ≤ s.cfg.byteTimeUs) (fits : s.dev.txLen ≤ s.dev.txMsg.length)
    (first : Sending s 0 0 t) (hk : k < s.dev.txLen) (hm : m < s.cfg.byteTimeUs) :
    Sending s k m (ticks (k * s.cfg.byteTimeUs + m) t) := by
  have within : ∀ {j m : Nat}, j < s.dev.txLen → Sending s j 0 (ticks (j * s.cfg.byteTimeUs) t) →
      m < s.cfg.byteTimeUs → Sending s j m (ticks (j * s.cfg.byteTimeUs + m) t) := by
    intro j m hj start hm
    induction m with
    | zero => exact start
    | succ m ih =>
      rw [← Nat.add_assoc, ticks_succ]
      exact sending_tick (ih (by omega)) hj hm
  suffices start : Sending s k 0 (ticks (k * s.cfg.byteTimeUs) t) from within hk start hm
  induction k with
  | zero => simpa [ticks] using first
  | succ k ih =>
    have step : (k + 1) * s.cfg.byteTimeUs = k * s.cfg.byteTimeUs + (s.cfg.byteTimeUs - 1) + 1 := by
      rw [Nat.succ_mul]; omega
    rw [step, ticks_succ]
    exact sending_next (within (by omega) (ih (by omega)) (by omega)) (by omega) hk fits

end Sending

/-- Settles O33: the first byte leaves before the first tick, and `sending_ticks` follows the others. -/
theorem responseLeavesInOrder : Obligations.ResponseLeavesInOrder := by
  intro s legal hs hy first more fits free k m hk hm
  obtain ⟨-, -, -, -, -, -, -, byteTime⟩ := (configLegal_iff s.cfg).1 legal
  have start := sending_of_free (s := s) rfl hs hy first rfl rfl more fits free
  have sending := sending_ticks byteTime fits start hk hm
  exact ⟨sending.byte, sending.idx, sending.busy, sending.left, sending.state, sending.msg, sending.len⟩

end Sys2Proof.Machine

/-! The encodings and the text formats (spec/30_encoding.md): request bytes, keys and the opcode table, the zone masks,
the printable filter and the log line. -/

namespace Sys2Proof.Machine

/-! ### Request bytes (30 R84, R85) -/

/-- A zone digit is one of the eight bytes '1' to '8'. -/
theorem isZoneDigit_iff (b : Byte) : isZoneDigit b = true ↔ 0x31 ≤ b.toNat ∧ b.toNat ≤ 0x38 := by
  simp [isZoneDigit, Config.zoneDigitLo, Config.zoneDigitHi, BitVec.le_def]

/-- Reading a request byte, row by row of R84: each of the eight digits, and every other byte. -/
theorem decodeRequest_induct {P : Byte → Instr → Prop} (one : P 0x31 .zoneSelect1) (two : P 0x32 .zoneSelect2)
    (three : P 0x33 .zoneSelect3) (four : P 0x34 .zoneSelect4) (five : P 0x35 .zoneSelect5)
    (six : P 0x36 .zoneSelect6) (seven : P 0x37 .zoneSelect7) (eight : P 0x38 .zoneSelect8)
    (status : ∀ b : Byte, isZoneDigit b = false → P b (.statusOnly b)) (b : Byte) : P b (decodeRequest b) := by
  unfold decodeRequest
  repeat' split
  case isFalse =>
    refine status b (Bool.eq_false_iff.2 fun digit => ?_)
    have bounds := isZoneDigit_bounds digit
    bv_omega
  all_goals subst b; assumption

/-- The digits are the only request bytes with a row of their own. -/
theorem decodeRequest_of_other {b : Byte} (other : isZoneDigit b = false) : decodeRequest b = .statusOnly b := by
  revert other
  apply decodeRequest_induct (P := fun b i => isZoneDigit b = false → i = .statusOnly b) (b := b)
    (status := fun _ _ _ => rfl)
  all_goals exact fun digit => absurd digit (by decide)

theorem wellFormed_decodeRequest (b : Byte) : (decodeRequest b).wellFormed = true :=
  decodeRequest_induct (P := fun _ i => i.wellFormed = true) rfl rfl rfl rfl rfl rfl rfl rfl
    (fun b other => by simp [Instr.wellFormed, other]) b

theorem encode_decodeRequest (b : Byte) : encode (decodeRequest b) = ⟨.request, b, 0⟩ :=
  decodeRequest_induct (P := fun b i => encode i = ⟨.request, b, 0⟩) rfl rfl rfl rfl rfl rfl rfl rfl (fun _ _ => rfl) b

/-- Settles O5: a digit's byte is bounded, and `STATUS_ONLY` is well formed for no digit. -/
theorem requestByteClasses : Obligations.RequestByteClasses := by
  refine fun b => ⟨isZoneDigit_iff b, fun digit => ?_, decodeRequest_of_other, fun status => ?_⟩
  · have bounds := isZoneDigit_bounds digit
    unfold zoneNumber
    omega
  · simpa [status, Instr.wellFormed] using wellFormed_decodeRequest b

/-! ### Keys, and both interfaces (30 R93, R94) -/

/-- A key that is a command has the code it was read from, but for a number typed where none is asked for. -/
theorem encode_of_decodeKey {k : Byte} {entry : Nat} {i : Instr} (h : decodeKey k entry = .ok i) :
    i.wellFormed = true ∧ encode i = ⟨.key, k, if k = 0x33 then entry else 0⟩ := by
  unfold decodeKey at h
  repeat' split at h
  case isFalse => cases h
  all_goals subst k; cases h; exact ⟨rfl, rfl⟩

/-- Settles O2: only `STATUS_ONLY` has an operand that the digits take bytes from. -/
theorem decodeOfEncodeIsTheInstruction : Obligations.DecodeOfEncodeIsTheInstruction := by
  intro i wf
  cases i with
  | statusOnly b =>
    have other : isZoneDigit b = false := by simpa [Instr.wellFormed] using wf
    exact congrArg Except.ok (decodeRequest_of_other other)
  | _ => rfl

/-- Settles O3, interface by interface. -/
theorem decodedCodeEncodesBack : Obligations.DecodedCodeEncodesBack := by
  rintro ⟨_ | _, b, entry⟩ i h
  · obtain rfl : decodeRequest b = i := Except.ok.inj h
    simp [wellFormed_decodeRequest, encode_decodeRequest]
  · obtain ⟨wf, code⟩ := encode_of_decodeKey h
    simp +contextual [wf, code]

/-- Settles O4: each word, run through the decoder. -/
theorem wordsOfTheTableDecode : Obligations.WordsOfTheTableDecode :=
  ⟨rfl, rfl, rfl, rfl, rfl, rfl, rfl, rfl, rfl, rfl, rfl⟩

/-- Settles O39: each of the three keys has an arm that answers the state it was given. -/
theorem keysThatStartNothing : Obligations.KeysThatStartNothing := fun _ => ⟨rfl, rfl, rfl⟩

/-! ### The opcode table (30 R95) -/

/-- Every instruction has its row: the law of each, put together. -/
theorem tableRowOf (i : Instr) : Laws.TableRowOf.Statement i := by
  cases i with
  | zoneSelect1 => exact Laws.TableRowOf.zoneSelect1
  | zoneSelect2 => exact Laws.TableRowOf.zoneSelect2
  | zoneSelect3 => exact Laws.TableRowOf.zoneSelect3
  | zoneSelect4 => exact Laws.TableRowOf.zoneSelect4
  | zoneSelect5 => exact Laws.TableRowOf.zoneSelect5
  | zoneSelect6 => exact Laws.TableRowOf.zoneSelect6
  | zoneSelect7 => exact Laws.TableRowOf.zoneSelect7
  | zoneSelect8 => exact Laws.TableRowOf.zoneSelect8
  | statusOnly b => exact Laws.TableRowOf.statusOnly b
  | keyHostStatus => exact Laws.TableRowOf.keyHostStatus
  | keyWeather => exact Laws.TableRowOf.keyWeather
  | keyHostZone n => exact Laws.TableRowOf.keyHostZone n
  | keyReserved => exact Laws.TableRowOf.keyReserved
  | keyExit => exact Laws.TableRowOf.keyExit

/-- The rows of the request interface are the first sixteen. -/
theorem filter_request_opcodeTable :
    opcodeTable.filter (fun r => decide (r.iface = .request)) = requestRows := by decide

theorem mnemonics_of_requestRows (b : Byte) :
    (requestRows.filter (fun r => rowMatches r b)).map TableRow.mnemonic = [mnemonic (decodeRequest b)] := by
  have row := tableRowOf (decodeRequest b) (wellFormed_decodeRequest b)
  rw [encode_decodeRequest] at row
  rw [← filter_request_opcodeTable, List.filter_filter, ← row]
  simp only [Bool.and_comm]

/-- Settles O1: the rows as they stand, and the one row of each instruction. -/
theorem opcodeTableCoversEveryByteOnce : Obligations.OpcodeTableCoversEveryByteOnce :=
  ⟨by decide, by decide, rfl, rfl, fun _ _ => beq_iff_eq, mnemonics_of_requestRows⟩

/-! ### Zone masks (30 R89) -/

section ZoneMask

variable {n : Nat}

theorem toNat_zoneMask (h : n ≤ 8) : (zoneMask n).toNat = 2 ^ (n - 1) := by
  have fits : 2 ^ (n - 1) < 2 ^ 8 := Nat.pow_lt_pow_right (by omega) (by omega)
  simpa [zoneMask, Nat.shiftLeft_eq] using fits

theorem getLsbD_zoneMask (h : n ≤ 8) (i : Nat) : (zoneMask n).getLsbD i = decide (n - 1 = i) := by
  rw [BitVec.getLsbD, toNat_zoneMask h, Nat.testBit_two_pow]

theorem zoneOf_zoneMask (pos : 1 ≤ n) (h : n ≤ 8) : zoneOf (zoneMask n) = n := by
  have found : (List.range 8).find? (fun i => (zoneMask n).getLsbD i) = some (n - 1) := by
    simp only [getLsbD_zoneMask h, List.find?_range_eq_some]
    simp only [decide_true, List.mem_range, Bool.not_eq_true', decide_eq_false_iff_not, true_and]
    exact ⟨by omega, fun j below => (Nat.ne_of_lt below).symm⟩
  simp only [zoneOf, found]
  omega

theorem toNat_zoneDigit (h : n ≤ 8) : (BitVec.ofNat 8 (0x30 + n)).toNat = 0x30 + n := by
  rw [BitVec.toNat_ofNat]
  omega

end ZoneMask

/-- Settles O9: the number of the digit `0x30 + n` is `n`. -/
theorem zoneMaskRoundTrip : Obligations.ZoneMaskRoundTrip := by
  intro n pos h
  have digit := toNat_zoneDigit h
  have number : zoneNumber (BitVec.ofNat 8 (0x30 + n)) = n := by unfold zoneNumber; omega
  exact ⟨toNat_zoneMask h, zoneOf_zoneMask pos h, (isZoneDigit_iff _).2 (by omega), by rw [number]⟩

/-! ### Decimal digits (30 R88, R90) -/

/-- A byte of '0' to '9'. -/
def IsDecimal (b : Byte) : Prop := 0x30 ≤ b.toNat ∧ b.toNat ≤ 0x39

theorem toNat_digitByte {k : Nat} (h : k < 10) : (digitByte k).toNat = 0x30 + k := by
  rw [digitByte, BitVec.toNat_ofNat]
  omega

theorem isDecimal_digitByte {k : Nat} (h : k < 10) : IsDecimal (digitByte k) := by
  unfold IsDecimal
  rw [toNat_digitByte h]
  omega

theorem isDecimal_decDigits (fuel n : Nat) {acc : List Byte} (h : ∀ b ∈ acc, IsDecimal b) :
    ∀ b ∈ decDigits fuel n acc, IsDecimal b := by
  induction fuel generalizing n acc with
  | zero => exact h
  | succ fuel ih =>
    have more : ∀ b ∈ digitByte (n % 10) :: acc, IsDecimal b :=
      List.forall_mem_cons.2 ⟨isDecimal_digitByte (by omega), h⟩
    unfold decDigits
    split
    · exact more
    · exact ih _ more

theorem isDecimal_decNat (n : Nat) : ∀ b ∈ decNat n, IsDecimal b := isDecimal_decDigits (n + 1) n (by simp)

/-- Two digits show a number modulo 100. -/
theorem readsAs_twoDigits_mod (n : Nat) : readsAs (twoDigits n) (n % 100) := by
  have tens : n / 10 % 10 < 10 := by omega
  have units : n % 10 < 10 := by omega
  constructor
  · simpa [twoDigits] using ⟨isDecimal_digitByte tens, isDecimal_digitByte units⟩
  · simp only [twoDigits, List.foldl_cons, List.foldl_nil, toNat_digitByte tens, toNat_digitByte units]
    omega

theorem readsAs_twoDigits {n : Nat} (h : n < 100) : readsAs (twoDigits n) n := by
  simpa only [Nat.mod_eq_of_lt h] using readsAs_twoDigits_mod n

/-- What `readsAs` makes of further digits after the number `m`. -/
def valueAfter (m : Nat) (bytes : List Byte) : Nat := bytes.foldl (fun m b => 10 * m + (b.toNat - 0x30)) m

theorem readsAs_iff (bytes : List Byte) (n : Nat) :
    readsAs bytes n ↔ (∀ b ∈ bytes, IsDecimal b) ∧ valueAfter 0 bytes = n := Iff.rfl

theorem valueAfter_eq (m : Nat) (bytes : List Byte) :
    valueAfter m bytes = m * 10 ^ bytes.length + valueAfter 0 bytes := by
  induction bytes generalizing m with
  | nil => simp [valueAfter]
  | cons b bytes ih =>
    have cons : ∀ k : Nat, valueAfter k (b :: bytes) = valueAfter (10 * k + (b.toNat - 0x30)) bytes := fun _ => rfl
    rw [cons, cons, ih, ih (10 * 0 + _), List.length_cons]
    ring

/-- A numeral followed by another is shifted by the other's places. -/
theorem readsAs_append {xs ys : List Byte} {m n : Nat} (hx : readsAs xs m) (hy : readsAs ys n) :
    readsAs (xs ++ ys) (m * 10 ^ ys.length + n) := by
  obtain ⟨xDigits, rfl⟩ := (readsAs_iff _ _).1 hx
  obtain ⟨yDigits, rfl⟩ := (readsAs_iff _ _).1 hy
  refine (readsAs_iff _ _).2 ⟨List.forall_mem_append.2 ⟨xDigits, yDigits⟩, ?_⟩
  rw [← valueAfter_eq]
  exact List.foldl_append

theorem readsAs_fourDigits {n : Nat} (h : n < 10000) : readsAs (fourDigits n) n := by
  have value : n / 100 * 10 ^ (twoDigits n).length + n % 100 = n := by
    simp only [twoDigits, List.length_cons, List.length_nil]
    omega
  have digits := readsAs_append (readsAs_twoDigits (n := n / 100) (by omega)) (readsAs_twoDigits_mod n)
  rwa [value] at digits

/-! ### The printable filter and the response line (30 R87, R91; 45 R209) -/

/-- The printable bytes of the source's range (00 R12). -/
abbrev IsPrintable (b : Byte) : Prop := 0x20 ≤ b.toNat ∧ b.toNat ≤ 0x7E

theorem IsDecimal.isPrintable {b : Byte} (h : IsDecimal b) : IsPrintable b := by
  unfold IsDecimal at h
  unfold IsPrintable
  omega

section Printable

variable {c : Config}

theorem filterPrintable_append (c : Config) (xs ys : List Byte) :
    filterPrintable c (xs ++ ys) = filterPrintable c xs ++ filterPrintable c ys := List.filter_append ..

theorem mem_filterPrintable {b : Byte} {bytes : List Byte} :
    b ∈ filterPrintable c bytes ↔ b ∈ bytes ∧ c.printableLo ≤ b ∧ b ≤ c.printableHi := by
  simp [filterPrintable]

theorem count_filterPrintable {b : Byte} (lo : c.printableLo ≤ b) (hi : b ≤ c.printableHi) (bytes : List Byte) :
    (filterPrintable c bytes).count b = bytes.count b :=
  List.count_filter (by simp [lo, hi])

theorem filterPrintable_eq_self {bytes : List Byte} (lo : c.printableLo = 0x20) (hi : c.printableHi = 0x7E)
    (h : ∀ b ∈ bytes, IsPrintable b) : filterPrintable c bytes = bytes :=
  List.filter_eq_self.2 fun b hb => by simpa [lo, hi, BitVec.le_def, IsPrintable] using h b hb

theorem isPrintable_decInt (v : Int) : ∀ b ∈ decInt v, IsPrintable b := by
  have digits : ∀ b ∈ decNat v.natAbs, IsPrintable b := fun b hb => (isDecimal_decNat _ b hb).isPrintable
  unfold decInt
  split
  · exact List.forall_mem_cons.2 ⟨by decide, digits⟩
  · exact digits

theorem isPrintable_texts : ∀ b ∈ textTemp ++ textMoisture ++ textZone, IsPrintable b := by decide

/-- The response line up to its newline (R87). -/
theorem responseLine_printable (t : Int) (m : Nat) (z : Byte) :
    ∃ line, responseLine t m z = line ++ [0x0A] ∧ (IsPrintable z → ∀ b ∈ line, IsPrintable b) := by
  refine ⟨textTemp ++ decInt t ++ textMoisture ++ decNat m ++ textZone ++ [z], by simp [responseLine], ?_⟩
  intro zone b hb
  have texts := isPrintable_texts b
  simp only [List.mem_append, List.mem_singleton] at hb texts
  obtain ((((temp | fahrenheit) | moisture) | moist) | zoneText) | rfl := hb
  · exact texts (.inl (.inl temp))
  · exact isPrintable_decInt t b fahrenheit
  · exact texts (.inl (.inr moisture))
  · exact (isDecimal_decNat m b moist).isPrintable
  · exact texts (.inr zoneText)
  · exact zone

theorem filterPrintable_responseLine {z : Byte} (lo : c.printableLo = 0x20) (hi : c.printableHi = 0x7E)
    (zone : IsPrintable z) (t : Int) (m : Nat) :
    filterPrintable c (responseLine t m z) ++ [0x0A] = responseLine t m z := by
  obtain ⟨line, eq, printable⟩ := responseLine_printable t m z
  have newline : filterPrintable c [0x0A] = [] := by simp [filterPrintable, lo]
  rw [eq, filterPrintable_append, filterPrintable_eq_self lo hi (printable zone), newline, List.append_nil]

end Printable

/-- Settles O11: the zone character is printable too. -/
theorem completeLineLosesOnlyItsNewline : Obligations.CompleteLineLosesOnlyItsNewline := by
  refine ⟨fun c bytes =>
      ⟨List.filter_sublist, fun b => mem_filterPrintable, fun b lo hi => count_filterPrintable lo hi bytes⟩,
    fun c t m z lo hi zone => filterPrintable_responseLine lo hi ?_ t m.toNat⟩
  obtain rfl | digit := zone
  · decide
  · have bounds := isZoneDigit_bounds digit
    unfold IsPrintable
    omega

/-! ### The log line (30 R90) -/

theorem length_timestamp (t : DateTime) : (timestamp t).length = 19 := rfl

theorem logLine_eq (t : DateTime) (p : List Byte) : logLine t p = (timestamp t ++ [0x3A, 0x20]) ++ (p ++ [0x0A]) := by
  simp [logLine]

/-- The log line puts back the newline that the filter took from the response line. -/
theorem logLine_responseLine {c : Config} {z : Byte} (lo : c.printableLo = 0x20) (hi : c.printableHi = 0x7E)
    (zone : IsPrintable z) (d : DateTime) (t : Int) (m : Nat) :
    logLine d (filterPrintable c (responseLine t m z)) = timestamp d ++ [0x3A, 0x20] ++ responseLine t m z := by
  rw [logLine_eq, filterPrintable_responseLine lo hi zone]

theorem readsAs_timestamp (t : DateTime) :
    readsAs ((timestamp t).take 2) (t.month0.val + 1) ∧ readsAs (((timestamp t).drop 3).take 2) (t.day0.val + 1)
    ∧ readsAs (((timestamp t).drop 6).take 4) t.year.val ∧ readsAs (((timestamp t).drop 11).take 2) t.hour.val
    ∧ readsAs (((timestamp t).drop 14).take 2) t.minute.val ∧ readsAs (((timestamp t).drop 17).take 2) t.second.val :=
  ⟨readsAs_twoDigits (by omega), readsAs_twoDigits (by omega), readsAs_fourDigits t.year.isLt,
    readsAs_twoDigits (by omega), readsAs_twoDigits (by omega), readsAs_twoDigits (by omega)⟩

/-- Settles O12: the vector of V6.6 is the logged line of R87, and the timestamps are computed. -/
theorem logLineShape : Obligations.LogLineShape := by
  refine ⟨fun t p => ?_, fun t => ?_, logLine_responseLine rfl rfl (by decide) _ _ _, by decide, by decide⟩
  · have before : (timestamp t ++ [0x3A, 0x20]).length = 21 := rfl
    rw [logLine_eq]
    refine ⟨?_, List.take_left' before, List.drop_left' before⟩
    rw [List.length_append, before, List.length_append, List.length_singleton]
    omega
  · obtain ⟨month, day, year, hour, minute, second⟩ := readsAs_timestamp t
    exact ⟨length_timestamp t, month, rfl, day, rfl, year, rfl, hour, rfl, minute, rfl, second⟩

end Sys2Proof.Machine

/-! The formats and the operations of the decoder: what the checksum detects, the rounding of the Fahrenheit conversion,
the shift of a bit into the frame, and the fetch that begins a read (spec/41_sensor_frame_decoder.md R121, R125, R128,
R132). -/

namespace Sys2Proof.Machine

/-! ### An error in one byte of a frame (41 R127, R128) -/

/-- Byte `j` of a frame, counted from the checksum up. -/
def frameByte (f : BitVec 40) (j : Nat) : Byte := f.extractLsb' (8 * j) 8

/-- The checksum test, over the bytes counted from the checksum up. -/
theorem checksumOk_iff_frameByte (f : BitVec 40) : checksumOk f = true ↔
    ((frameByte f 4).toNat + (frameByte f 3).toNat + (frameByte f 2).toNat + (frameByte f 1).toNat) % 256
      = (frameByte f 0).toNat := by
  simp [checksumOk, frameByte, frameB0, frameB1, frameB2, frameB3, frameB4]

theorem frameByte_xor (f e : BitVec 40) (j : Nat) : frameByte (f ^^^ e) j = frameByte f j ^^^ frameByte e j :=
  BitVec.extractLsb'_xor

section OneByte

variable {e : BitVec 40} {k : Nat} (confined : e &&& ((0xFF : BitVec 40) <<< (8 * k)) = e)
include confined

/-- A bit that is set in a word confined to byte `k` lies in that byte. -/
theorem bit_of_confined {i : Nat} (bit : e.getLsbD i = true) : 8 * k ≤ i ∧ i < 8 * k + 8 := by
  rw [← confined, BitVec.getLsbD_and, BitVec.getLsbD_shiftLeft] at bit
  simp only [Bool.and_eq_true, Bool.not_eq_true', decide_eq_true_eq, decide_eq_false_iff_not] at bit
  obtain ⟨-, ⟨-, above⟩, ones⟩ := bit
  have below : i - 8 * k < 8 := by
    by_contra high
    have byte : (0xFF : BitVec 40) = BitVec.setWidth 40 (0xFF : Byte) := rfl
    rw [byte, BitVec.getLsbD_setWidth, BitVec.getLsbD_of_ge (0xFF : Byte) _ (by omega)] at ones
    simp at ones
  omega

theorem frameByte_of_confined {j : Nat} (other : j ≠ k) : frameByte e j = 0 := by
  refine BitVec.eq_of_getLsbD_eq fun i hi => ?_
  by_contra set
  have bit : e.getLsbD (8 * j + i) = true := by simpa [frameByte, hi] using set
  have := bit_of_confined confined bit
  omega

theorem frameByte_ne_zero_of_confined (nonzero : e ≠ 0) : frameByte e k ≠ 0 := by
  intro zero
  refine nonzero (BitVec.eq_of_getLsbD_eq fun i _ => ?_)
  by_contra set
  have bit : e.getLsbD i = true := by simpa using set
  obtain ⟨above, below⟩ := bit_of_confined confined bit
  have same : (frameByte e k).getLsbD (i - 8 * k) = e.getLsbD i := by
    rw [frameByte, BitVec.getLsbD_extractLsb', decide_eq_true (by omega : i - 8 * k < 8), Nat.add_sub_cancel' above,
      Bool.true_and]
  rw [zero, bit] at same
  simp at same

/-- An error confined to one byte changes that byte and no other. -/
theorem frameByte_xor_iff (nonzero : e ≠ 0) (f : BitVec 40) (j : Nat) :
    (frameByte (f ^^^ e) j).toNat = (frameByte f j).toNat ↔ j ≠ k := by
  have same : frameByte (f ^^^ e) j = frameByte f j ↔ frameByte e j = 0 := by
    rw [frameByte_xor, xor_left_eq_self_iff]
  rw [BitVec.toNat_inj, same]
  constructor
  · rintro zero rfl
    exact frameByte_ne_zero_of_confined confined nonzero zero
  · exact frameByte_of_confined confined

end OneByte

/-- Settles O7: of the five bytes exactly one changes, and the sum or the checksum with it, but not both. -/
theorem checksumCatchesErrorsInOneByte : Obligations.ChecksumCatchesErrorsInOneByte := by
  intro f e k good inFrame nonzero confined
  refine Bool.eq_false_iff.2 fun good' => ?_
  rw [checksumOk_iff_frameByte] at good good'
  have changed := frameByte_xor_iff confined nonzero f
  have b0 := changed 0
  have b1 := changed 1
  have b2 := changed 2
  have b3 := changed 3
  have b4 := changed 4
  omega

/-! ### The Fahrenheit conversion (41 R132) -/

theorem cToF_of_pos {t : Int} (h : 0 < 9 * t + 1600) : cToF t = (9 * t + 1600 + 25) / 50 := by
  rw [cToF, Int.sign_eq_one_of_pos h]
  omega

theorem cToF_of_neg {t : Int} (h : 9 * t + 1600 < 0) : cToF t = -((25 - (9 * t + 1600)) / 50) := by
  rw [cToF, Int.sign_eq_neg_one_of_neg h]
  omega

/-- The conversion is at most half a degree from `N / 50`, at exactly half a degree for the remainder 25 alone, and then
further from zero. -/
theorem cToF_nearest (t : Int) :
    (50 * cToF t - (9 * t + 1600)).natAbs ≤ 25
    ∧ ((50 * cToF t - (9 * t + 1600)).natAbs = 25 ↔ t % 50 = 25)
    ∧ ((50 * cToF t - (9 * t + 1600)).natAbs = 25 → (9 * t + 1600).natAbs < (50 * cToF t).natAbs) := by
  obtain below | above : 9 * t + 1600 < 0 ∨ 0 < 9 * t + 1600 := by omega
  · rw [cToF_of_neg below]
    refine ⟨?_, ?_, fun half => ?_⟩ <;> omega
  · rw [cToF_of_pos above]
    refine ⟨?_, ?_, fun half => ?_⟩ <;> omega

/-- Settles O8: `9 * T + 1600` is never zero, and `cToF_nearest` treats its two signs. -/
theorem fahrenheitRoundsHalfAwayFromZero : Obligations.FahrenheitRoundsHalfAwayFromZero := by
  refine ⟨fun t => ⟨rfl, ?_⟩, rfl, rfl, rfl, rfl, rfl, rfl, rfl, rfl, rfl⟩
  obtain ⟨near, ties, away⟩ := cToF_nearest t
  exact ⟨near, ties, away, cToF_bounds⟩

/-! ### A measured bit enters the frame (41 R125) -/

theorem getLsbD_zero_shiftFrame (f : BitVec 40) (bit : Bool) : (shiftFrame f bit).getLsbD 0 = bit := by
  simp [shiftFrame]

/-- Every bit below the top one moves up one place. -/
theorem getLsbD_succ_shiftFrame (f : BitVec 40) (bit : Bool) {i : Nat} (h : i < 39) :
    (shiftFrame f bit).getLsbD (i + 1) = f.getLsbD i := by
  have inFrame : i + 1 < 40 := by omega
  simp [shiftFrame, inFrame, BitVec.getLsbD_eq_getElem (by omega : i < 40)]

/-- Settles O14. -/
theorem classifiedBitEntersTheFrame : Obligations.ClassifiedBitEntersTheFrame := by
  intro d s
  refine ⟨rfl, ?_, fun i => getLsbD_succ_shiftFrame s.dec.frame _⟩
  rw [shiftBit_dec, getLsbD_zero_shiftFrame, classifyBit, decide_eq_true_iff]

/-! ### The fetch of a request (41 R121, 43 R162, 44 R181) -/

/-- Settles O15: the fetch writes the fields it names, and a driven wire is low. -/
theorem requestBeginsARead : Obligations.RequestBeginsARead := by
  intro b s
  have driven : lineLevel (beginCycle b s) = .low := (lineLevel_eq_low_iff _).2 (.inl rfl)
  exact ⟨rfl, rfl, rfl, rfl, driven, rfl, rfl, rfl, rfl, rfl, rfl, rfl, rfl⟩

end Sys2Proof.Machine

/-! The device's side of a request's cycle, tick by tick, and the time the cycle takes (spec/41_sensor_frame_decoder.md
R134, spec/42_zone_actuator.md R155, spec/44_device_protocol.md R189). -/

namespace Sys2Proof.Machine

/-! ### The device's side of a cycle (00 R7, 44 R180) -/

theorem SameDevice.elapse {u v : State} (h : SameDevice u v) : SameDevice (elapse u) (elapse v) := by
  rw [SameDevice] at *
  rw [h]; rfl

/-- With no reset to come, a tick of the running cycle does to the device's side what its transmitter and its program
do. -/
theorem sameDevice_advance_pollInputs {u : State} (noRst : noReset u = true) :
    SameDevice (advance (pollInputs u)) (deviceRun (deviceTransmit (elapse u))) := by
  have polled : SameDevice (pollInputs u) u := by rw [pollInputs_of_noReset noRst]; exact sameDevice_takeKey u
  exact (sameDevice_advance (noReset_pollInputs noRst)).trans polled.elapse.deviceTransmit.deviceRun

/-- A property of the device's side that every move keeps, and every tick that the device waits for, holds at the end of
a cycle if it holds at its fetch. -/
theorem deviceCycle_induct {P : State → Prop} (congr : ∀ {u v : State}, SameDevice v u → P u → P v)
    (move : ∀ u, P u → P (deviceMove u))
    (tick : ∀ u, u.dev.yielded = true → u.dev.state ≠ .awaitRequest → P u → P (deviceTransmit (elapse u)))
    {b : Byte} {s : State} (legal : configLegal s.cfg = true) (noRst : noReset s = true) (h : P (beginCycle b s)) :
    P (deviceCycle b s) := by
  suffices ends : (configLegal (deviceCycle b s).cfg = true ∧ noReset (deviceCycle b s) = true
      ∧ settled (deviceCycle b s) = true) ∧ P (deviceCycle b s) from ends.2
  refine runToAwait_induct
    (P := fun u => (configLegal u.cfg = true ∧ noReset u = true ∧ settled u = true) ∧ P u) ?step _ ?start
  case start =>
    refine ⟨⟨by rwa [deviceRun_cfg], ?_, deviceRun_settles _ legal⟩, deviceRun_induct move h⟩
    rwa [noReset, (deviceRun_deviceOnly _).resets]
  case step =>
    rintro u ⟨⟨legal, noRst, rest⟩, hu⟩ await
    have same := sameDevice_advance_pollInputs noRst
    have yielded : u.dev.yielded = true := by simpa [settled, await] using rest
    refine ⟨⟨by simpa using legal, noReset_advance (noReset_pollInputs noRst), ?_⟩,
      congr same (deviceRun_induct move (tick u yielded await hu))⟩
    rw [settled, same.dev]
    exact deviceRun_settles _ (by simpa using legal)

/-- A cycle that has not ended has used up its fuel. -/
theorem runToAwait_awaits_or_now (n : Nat) (s : State) :
    (runToAwait n s).dev.state = .awaitRequest ∨ (runToAwait n s).now = s.now + n := by
  induction n generalizing s with
  | zero => exact .inr rfl
  | succ n ih =>
    unfold runToAwait
    split
    · exact .inl ‹_›
    · refine (ih _).imp_right fun now => ?_
      rw [now, advance_now, pollInputs_now]
      omega

/-! ### The byte in the transmitter (43 R161) -/

/-- The ticks until the transmitter is free. -/
def flightLeft (s : State) : Nat := if s.duart.txReady then 0 else max 1 s.duart.txRemain

theorem flightLeft_deviceTransmit (s : State) : flightLeft (deviceTransmit s) = flightLeft s - 1 := by
  obtain ⟨ready, e⟩ | ⟨busy, last, e⟩ | ⟨busy, more, e⟩ := deviceTransmit_cases s <;> rw [e]
  · simp [flightLeft, ready]
  · rw [deliverD2H_eq]
    simp [flightLeft, busy, last]
  · simp only [flightLeft, busy, Bool.false_eq_true, if_false]
    omega

/-! ### The shortest response line (30 R87, R88; 44 R190) -/

theorem length_le_length_decDigits (fuel n : Nat) (acc : List Byte) : acc.length ≤ (decDigits fuel n acc).length := by
  induction fuel generalizing n acc with
  | zero => exact le_refl _
  | succ fuel ih =>
    unfold decDigits
    split
    · exact Nat.le_succ _
    · exact (Nat.le_succ _).trans (ih _ (digitByte (n % 10) :: acc))

theorem one_le_length_decNat (n : Nat) : 1 ≤ (decNat n).length := by
  unfold decNat decDigits
  split
  · exact le_refl _
  · exact length_le_length_decDigits _ _ [_]

theorem one_le_length_decInt (v : Int) : 1 ≤ (decInt v).length := by
  unfold decInt
  split
  · exact Nat.succ_le_succ (Nat.zero_le _)
  · exact one_le_length_decNat _

theorem forty_le_length_responseLine (t : Int) (m : Nat) (z : Byte) : 40 ≤ (responseLine t m z).length := by
  have temp := one_le_length_decInt t
  have moist := one_le_length_decNat m
  simp only [responseLine, textTemp, textMoisture, textZone, List.length_append, List.length_cons, List.length_nil]
  omega

/-! ### The ticks left of a cycle -/

/-- The ticks of `write_zone`, which a byte that is no zone digit skips (42 R150, R155; 44 R187). -/
def zoneTicks (c : Config) (b : Byte) : Nat :=
  if isZoneDigit b then 16 * c.clkPulseUs + c.latchPulseUs else 0

/-- The ticks left in `DecodeActuate`, `read` being what is left of a read in progress. -/
def actuateLeft (read : Nat) (s : State) : Nat :=
  match s.dev.pos with
  | .read => read + s.cfg.adcTimeUs + zoneTicks s.cfg s.dev.req
  | .adc => s.dev.wait + zoneTicks s.cfg s.dev.req
  | .clkHigh => s.dev.wait + (2 * s.dev.zIdx + 1) * s.cfg.clkPulseUs + s.cfg.latchPulseUs
  | .clkLow => s.dev.wait + 2 * s.dev.zIdx * s.cfg.clkPulseUs + s.cfg.latchPulseUs
  | .latch => s.dev.wait

/-- The ticks left in `Respond`: the byte in flight, and a byte time for each byte to come but the last (44 R189). -/
def sendLeft (s : State) : Nat :=
  max s.dev.yielded.toNat (if s.dev.txIdx < s.dev.txLen then flightLeft s else 0)
    + (s.dev.txLen - 1 - s.dev.txIdx) * s.cfg.byteTimeUs

/-- The ticks left of a cycle, `read` and `send` being what is left of a read in progress and what the response takes
that has not begun. -/
def ticksLeft (read send : Nat) (s : State) : Nat :=
  match s.dev.state with
  | .awaitRequest => 0
  | .decodeActuate => s.dev.yielded.toNat + actuateLeft read s + send
  | .respond => sendLeft s

section TicksLeft

variable {s : State}

theorem ticksLeft_of_await (hs : s.dev.state = .awaitRequest) (read send : Nat) : ticksLeft read send s = 0 := by
  simp only [ticksLeft, hs]

theorem ticksLeft_of_actuate (hs : s.dev.state = .decodeActuate) (read send : Nat) :
    ticksLeft read send s = s.dev.yielded.toNat + actuateLeft read s + send := by simp only [ticksLeft, hs]

theorem ticksLeft_of_respond (hs : s.dev.state = .respond) (read send : Nat) : ticksLeft read send s = sendLeft s := by
  simp only [ticksLeft, hs]

/-! ### A move takes no time: in `Respond`, and in `DecodeActuate` after the read -/

/-- A byte handed over puts its byte time in the place of one that was to come; a wait goes to the next tick. -/
theorem ticksLeft_sendMove (byteTime : 1 ≤ s.cfg.byteTimeUs) (hs : s.dev.state = .respond)
    (hy : s.dev.yielded = false) (read send : Nat) : ticksLeft read send (sendMove s) = sendLeft s := by
  obtain ⟨more, free, e⟩ | ⟨more, busy, e⟩ | ⟨sent, e⟩ := sendMove_cases s <;> rw [e]
  · rw [ticksLeft_of_respond (by exact hs)]
    obtain last | ⟨k, hk⟩ : s.dev.txLen = s.dev.txIdx + 1 ∨ ∃ k, s.dev.txLen = s.dev.txIdx + 2 + k := by
      by_cases last : s.dev.txLen = s.dev.txIdx + 1
      · exact .inl last
      · exact .inr ⟨s.dev.txLen - (s.dev.txIdx + 2), by omega⟩
    · simp [sendLeft, flightLeft, sendByte, hy, free, last]
    · have now : s.dev.txLen - 1 - s.dev.txIdx = k + 1 := by omega
      have next : s.dev.txLen - 1 - (s.dev.txIdx + 1) = k := by omega
      have more' : s.dev.txIdx + 1 < s.dev.txLen := by omega
      simp only [sendLeft, flightLeft, sendByte, writeTxd_dev, writeTxd_duart, writeTxd_cfg, hy, free, more, more', now,
        next, if_true, Bool.false_eq_true, if_false, Bool.toNat_false, Nat.succ_mul]
      omega
  · rw [ticksLeft_of_respond (by exact hs)]
    have flight : flightLeft (yieldTick s) = flightLeft s := rfl
    have inFlight : 1 ≤ flightLeft s := by simp [flightLeft, busy]
    simp only [sendLeft, flight, yieldTick_dev, yieldTick_cfg, more, if_true, hy, Bool.toNat_true, Bool.toNat_false]
    omega
  · have none : s.dev.txLen - 1 - s.dev.txIdx = 0 := by omega
    simp [ticksLeft_of_await, sendLeft, hy, none, Nat.not_lt.2 sent]

/-- A response that begins waits for the byte in flight and then takes 39 to 44 byte times (44 R189, R190). -/
theorem sendLeft_convertAndRespond (hy : s.dev.yielded = false) :
    ∃ n, 39 ≤ n ∧ n ≤ 44 ∧ sendLeft (convertAndRespond s) = flightLeft s + n * s.cfg.byteTimeUs := by
  have least := forty_le_length_responseLine (convertAndRespond s).dev.tempF.toInt s.dev.moist.toNat s.dev.curZone
  have most : (responseLine (convertAndRespond s).dev.tempF.toInt s.dev.moist.toNat s.dev.curZone).length ≤ 45 :=
    length_responseLine_le _ _ _
  refine ⟨(convertAndRespond s).dev.txLen - 1, Nat.le_sub_one_of_lt least, Nat.sub_le_of_le_add most, ?_⟩
  have first : 0 < (convertAndRespond s).dev.txLen := by exact Nat.lt_of_lt_of_le (by omega) least
  have start : (convertAndRespond s).dev.txIdx = 0 := rfl
  have quiet : (convertAndRespond s).dev.yielded = false := hy
  have flight : flightLeft (convertAndRespond s) = flightLeft s := rfl
  have cfg : (convertAndRespond s).cfg = s.cfg := rfl
  simp only [sendLeft, start, first, quiet, flight, cfg, if_true, Bool.toNat_false, Nat.zero_max, Nat.sub_zero]

/-- The least and the most ticks left of a cycle: of a read in progress the start signal or every phase, and of the
response that has not begun the byte times between the bytes of the shortest or of the longest line. -/
def leastLeft (s : State) : Nat :=
  ticksLeft (if s.dec.state = .start then s.cfg.tStartUs - s.dec.startCnt else 0) (39 * s.cfg.byteTimeUs) s

def mostLeft (s : State) : Nat := ticksLeft (readLeft s) (flightLeft s + 44 * s.cfg.byteTimeUs) s

/-- Neither bound on the ticks left gets looser from `s` to `t`. -/
def TakesNoTime (s t : State) : Prop := leastLeft s ≤ leastLeft t ∧ mostLeft t ≤ mostLeft s

/-- A move that leaves the decoder and the ticks left alone. -/
theorem takesNoTime_of_eq {t : State} (dec : t.dec = s.dec) (cfg : t.cfg = s.cfg) (flight : flightLeft t = flightLeft s)
    (same : ∀ read send, ticksLeft read send t = ticksLeft read send s) : TakesNoTime s t := by
  have read : readLeft t = readLeft s := by simp only [readLeft, dec, cfg]
  simp only [TakesNoTime, leastLeft, mostLeft, dec, cfg, flight, read, same, le_refl, and_self]

/-- The end of `DecodeActuate`: the response begins. -/
theorem takesNoTime_of_converts {t : State} (hs : s.dev.state = .decodeActuate)
    (hy : s.dev.yielded = false) (waited : ∀ read, actuateLeft read s = 0) (ht : t.dev.state = .respond)
    (send : ∃ n, 39 ≤ n ∧ n ≤ 44 ∧ sendLeft t = flightLeft s + n * s.cfg.byteTimeUs) : TakesNoTime s t := by
  obtain ⟨n, least, most, send⟩ := send
  have lo := Nat.mul_le_mul_right s.cfg.byteTimeUs least
  have hi := Nat.mul_le_mul_right s.cfg.byteTimeUs most
  simp only [TakesNoTime, leastLeft, mostLeft, ticksLeft_of_actuate hs, ticksLeft_of_respond ht, waited, send, hy,
    Bool.toNat_false]
  omega

theorem takesNoTime_sendMove (byteTime : 1 ≤ s.cfg.byteTimeUs) (hs : s.dev.state = .respond)
    (hy : s.dev.yielded = false) : TakesNoTime s (sendMove s) := by
  simp only [TakesNoTime, leastLeft, mostLeft, ticksLeft_sendMove byteTime hs hy, ticksLeft_of_respond hs, le_refl,
    and_self]

/-- A wait goes to the next tick, or is over. -/
theorem takesNoTime_waiting {k : State → State} (hs : s.dev.state = .decodeActuate) (hp : s.dev.pos ≠ .read)
    (hy : s.dev.yielded = false) (ended : s.dev.wait = 0 → TakesNoTime s (k s)) : TakesNoTime s (waiting k s) := by
  obtain ⟨done, e⟩ | ⟨more, e⟩ := waiting_cases k s <;> rw [e]
  · exact ended done
  refine takesNoTime_of_eq rfl rfl rfl fun read send => ?_
  rw [ticksLeft_of_actuate hs, ticksLeft_of_actuate (by exact hs)]
  cases pos : s.dev.pos <;>
    simp only [actuateLeft, yieldTick_dev, yieldTick_cfg, pos, hy, Bool.toNat_true, Bool.toNat_false]
  case read => exact absurd pos hp
  all_goals omega

@[simp] theorem presentBit_cfg (i : Nat) (s : State) : (presentBit i s).cfg = s.cfg := (presentBit_deviceOnly i s).cfg

theorem takesNoTime_zoneUpdate (hs : s.dev.state = .decodeActuate) (hp : s.dev.pos = .adc)
    (hy : s.dev.yielded = false) (ended : s.dev.wait = 0) : TakesNoTime s (zoneUpdate s) := by
  obtain ⟨digit, e⟩ | ⟨other, e⟩ := zoneUpdate_cases s <;> rw [e]
  · refine takesNoTime_of_eq (by simp) (presentBit_deviceOnly 7 _).cfg ?_ fun read send => ?_
    · simp [presentBit, flightLeft]
    · rw [ticksLeft_of_actuate hs, ticksLeft_of_actuate (by simpa using hs)]
      simp only [actuateLeft, presentBit_dev, presentBit_cfg, hp, ended, zoneTicks, digit, if_true]
      omega
  · exact takesNoTime_of_converts hs hy (fun read => by simp [actuateLeft, hp, ended, zoneTicks, other]) rfl
      (sendLeft_convertAndRespond hy)

theorem takesNoTime_clockFall (hs : s.dev.state = .decodeActuate) (hp : s.dev.pos = .clkHigh) (ended : s.dev.wait = 0) :
    TakesNoTime s (clockFall s) := by
  refine takesNoTime_of_eq (by simp) (clockFall_deviceOnly s).cfg (by simp [clockFall, flightLeft]) fun read send => ?_
  rw [ticksLeft_of_actuate hs, ticksLeft_of_actuate (by simpa using hs)]
  simp only [actuateLeft, clockFall_dev, (clockFall_deviceOnly s).cfg, hp, ended, Nat.succ_mul]
  omega

theorem takesNoTime_nextZoneBit (hs : s.dev.state = .decodeActuate) (hp : s.dev.pos = .clkLow)
    (ended : s.dev.wait = 0) : TakesNoTime s (nextZoneBit s) := by
  have cfg := (nextZoneBit_deviceOnly s).cfg
  obtain ⟨last, e⟩ | ⟨i, more, e⟩ := nextZoneBit_cases s <;> rw [e] at cfg ⊢
  · refine takesNoTime_of_eq (by simp) cfg (by simp [latchRise, flightLeft]) fun read send => ?_
    rw [ticksLeft_of_actuate hs, ticksLeft_of_actuate (by simpa using hs)]
    simp [actuateLeft, hp, ended, last]
  · refine takesNoTime_of_eq (by simp) cfg (by simp [presentBit, flightLeft]) fun read send => ?_
    rw [ticksLeft_of_actuate hs, ticksLeft_of_actuate (by simpa using hs)]
    simp only [actuateLeft, presentBit_dev, cfg, hp, ended, more, Nat.mul_succ, Nat.succ_mul, Nat.add_mul]
    omega

theorem takesNoTime_latchFall (hs : s.dev.state = .decodeActuate) (hp : s.dev.pos = .latch)
    (hy : s.dev.yielded = false) (ended : s.dev.wait = 0) : TakesNoTime s (latchFall s) := by
  have duart : (latchFall s).duart = (convertAndRespond s).duart := by simp [latchFall, convertAndRespond]
  have cfg : (latchFall s).cfg = (convertAndRespond s).cfg := (latchFall_deviceOnly s).cfg
  have send : sendLeft (latchFall s) = sendLeft (convertAndRespond s) := by
    simp only [sendLeft, flightLeft, latchFall_dev, duart, cfg]
  refine takesNoTime_of_converts hs hy (fun read => by simp [actuateLeft, hp, ended]) (by rw [latchFall_dev]; rfl) ?_
  rw [send]
  exact sendLeft_convertAndRespond hy

/-! ### A move of the read takes no time (41 R120, R134) -/

theorem ticksLeft_of_read (hs : s.dev.state = .decodeActuate) (hp : s.dev.pos = .read) (read send : Nat) :
    ticksLeft read send s
      = s.dev.yielded.toNat + (read + s.cfg.adcTimeUs + zoneTicks s.cfg s.dev.req) + send := by
  simp only [ticksLeft_of_actuate hs, actuateLeft, hp]

theorem takesNoTime_takeResult (hs : s.dev.state = .decodeActuate) (hp : s.dev.pos = .read)
    (done : s.dec.state = .done) : TakesNoTime s (takeResult s) := by
  have cfg := (takeResult_deviceOnly s).cfg
  have flight : flightLeft (takeResult s) = flightLeft s := by
    unfold takeResult; rw [sampleMoisture_eq]; rfl
  have after : ∀ read send, ticksLeft read send (takeResult s) = ticksLeft 0 send s := by
    intro read send
    have hs' : (takeResult s).dev.state = .decodeActuate := by rw [takeResult_dev]; exact hs
    rw [ticksLeft_of_actuate hs', ticksLeft_of_read hs hp, Nat.zero_add]
    unfold actuateLeft
    rw [takeResult_dev, cfg]
  have left : readLeft s = 0 := by simp [readLeft, phaseLeft, phasesLeft, done]
  simp only [TakesNoTime, leastLeft, mostLeft, after, cfg, flight, left, done, reduceCtorEq, if_false, le_refl,
    and_self]

/-- The start signal counts one less for each tick, and what else is left of the read with it. -/
theorem takesNoTime_decoderMove (place : decoderInPlace s = true) (hs : s.dev.state = .decodeActuate)
    (hp : s.dev.pos = .read) (hy : s.dev.yielded = false) (idle : s.dec.state ≠ .idle) (done : s.dec.state ≠ .done) :
    TakesNoTime s (decoderMove s) ∧ (decoderMove s).dec.state ≠ .idle := by
  have only := decoderMove_decoderOnly s
  have cfg := (decoderMove_deviceOnly s).cfg
  have flight : flightLeft (decoderMove s) = flightLeft s := by
    rw [DecoderOnly] at only; rw [only]; rfl
  have after : ∀ read send, ticksLeft read send (decoderMove s)
      = (decoderMove s).dev.yielded.toNat + (read + s.cfg.adcTimeUs + zoneTicks s.cfg s.dev.req) + send := by
    intro read send
    rw [ticksLeft_of_read (by rw [decoderMove_dev]; exact hs) (by rw [decoderMove_dev]; exact hp), cfg]
    rw [decoderMove_dev]
  have signal : (if s.dec.state = .start then s.cfg.tStartUs - s.dec.startCnt else 0)
      ≤ (decoderMove s).dev.yielded.toNat
        + (if (decoderMove s).dec.state = .start then s.cfg.tStartUs - (decoderMove s).dec.startCnt else 0) := by
    split
    · next hd =>
      have e : decoderMove s = startSignal s := by simp only [decoderMove, hd]
      obtain ⟨below, e'⟩ | ⟨whole, e'⟩ := startSignal_cases s <;> rw [e, e']
      · simp only [yieldTick_dev, yieldTick_dec, hd, if_true, Bool.toNat_true]
        omega
      · rw [Nat.sub_eq_zero_of_le whole]
        exact Nat.zero_le _
    · exact Nat.zero_le _
  have left : readLeft (decoderMove s) + (decoderMove s).dev.yielded.toNat ≤ readLeft s
      ∧ (decoderMove s).dec.state ≠ .idle := by
    obtain ⟨-, -, e⟩ | goesOn := decoderMove_commits_or_goesOn place idle done
    · rw [e]
      simp [readLeft, phaseLeft, phasesLeft, hy]
    · have left := goesOn.left
      rw [hy] at left
      exact ⟨left, goesOn.reads⟩
  obtain ⟨left, reads⟩ := left
  refine ⟨?_, reads⟩
  simp only [TakesNoTime, leastLeft, mostLeft, after, ticksLeft_of_read hs hp, hy, Bool.toNat_false, cfg, flight]
  omega

end TicksLeft

/-! ### A tick takes a tick -/

section Tick

variable {u : State}

theorem ticksLeft_mono (read : Nat) {send send' : Nat} (h : send ≤ send') :
    ticksLeft read send u ≤ ticksLeft read send' u := by
  cases hs : u.dev.state
  · simp only [ticksLeft_of_await hs, le_refl]
  · simp only [ticksLeft_of_actuate hs]; omega
  · simp only [ticksLeft_of_respond hs, le_refl]

theorem flightLeft_tick : flightLeft (deviceTransmit (elapse u)) = flightLeft u - 1 := flightLeft_deviceTransmit _

/-- Wherever the device waits for a tick, that tick is one of those left. -/
theorem ticksLeft_tick (hy : u.dev.yielded = true) (await : u.dev.state ≠ .awaitRequest) (read send : Nat) :
    ticksLeft read send u = ticksLeft read send (deviceTransmit (elapse u)) + 1 := by
  have dev : (deviceTransmit (elapse u)).dev = { u.dev with yielded := false } := by simp
  have cfg : (deviceTransmit (elapse u)).cfg = u.cfg := by simp
  cases hs : u.dev.state
  · exact absurd hs await
  · have actuate : actuateLeft read (deviceTransmit (elapse u)) = actuateLeft read u := by
      simp only [actuateLeft, dev, cfg]
    rw [ticksLeft_of_actuate hs, ticksLeft_of_actuate (by rw [dev]; exact hs), actuate, dev, hy]
    simp only [Bool.toNat_true, Bool.toNat_false]
    omega
  · rw [ticksLeft_of_respond hs, ticksLeft_of_respond (by rw [dev]; exact hs)]
    simp only [sendLeft, dev, cfg, hy, flightLeft_tick, Bool.toNat_true, Bool.toNat_false]
    split <;> omega

theorem leastLeft_tick (hy : u.dev.yielded = true) (await : u.dev.state ≠ .awaitRequest) :
    leastLeft u = leastLeft (deviceTransmit (elapse u)) + 1 := by
  simp only [leastLeft, ticksLeft_tick hy await, deviceTransmit_dec, deviceTransmit_cfg, elapse_dec, elapse_cfg]

theorem mostLeft_tick (hy : u.dev.yielded = true) (await : u.dev.state ≠ .awaitRequest) :
    mostLeft (deviceTransmit (elapse u)) + 1 ≤ mostLeft u := by
  have read : readLeft (deviceTransmit (elapse u)) = readLeft u := by simp [readLeft]
  rw [mostLeft, mostLeft, ticksLeft_tick hy await, read, flightLeft_tick, deviceTransmit_cfg, elapse_cfg]
  exact Nat.succ_le_succ (ticksLeft_mono _ (by omega))

end Tick

/-! ### The bounds hold all along (41 R134, 42 R155, 44 R189) -/

/-- From `i` to `u` the ticks passed are at least and at most those by which the two bounds on the ticks left fell. -/
structure InTime (i u : State) : Prop where
  cfg : u.cfg = i.cfg
  place : decoderInPlace u = true
  reads : InRead u.dev → u.dec.state ≠ .idle
  least : i.now + leastLeft i ≤ u.now + leastLeft u
  most : u.now + mostLeft u ≤ i.now + mostLeft i

section InTime

variable {i u : State}

/-- The bounds depend on the device's side alone. -/
theorem SameDevice.leastLeft {v : State} (h : SameDevice v u) : leastLeft v = leastLeft u := by rw [h]; rfl

theorem SameDevice.mostLeft {v : State} (h : SameDevice v u) : mostLeft v = mostLeft u := by rw [h]; rfl

theorem InTime.congr {v : State} (same : SameDevice v u) (h : InTime i u) : InTime i v where
  cfg := same.cfg.trans h.cfg
  place := decoderInPlace_congr h.place same.cfg (by simp [same.dec]) (by simp [same.dev])
  reads := by rw [same.dec, same.dev]; exact h.reads
  least := by rw [same.now, same.leastLeft]; exact h.least
  most := by rw [same.now, same.mostLeft]; exact h.most

/-- A device that moves has not yielded, and does one of the things that take no time. -/
theorem takesNoTime_deviceMove (byteTime : 1 ≤ u.cfg.byteTimeUs) (place : decoderInPlace u = true)
    (reads : InRead u.dev → u.dec.state ≠ .idle) :
    TakesNoTime u (deviceMove u) ∧ (InRead (deviceMove u).dev → (deviceMove u).dec.state ≠ .idle) := by
  by_cases inRead : InRead u.dev
  · obtain ⟨hs, hp⟩ := id inRead
    obtain ⟨-, e⟩ | ⟨-, done, e⟩ | ⟨hy, done, e⟩ := deviceMove_inRead inRead <;> rw [e]
    · exact ⟨⟨le_refl _, le_refl _⟩, reads⟩
    · exact ⟨takesNoTime_takeResult hs hp done, by rw [takeResult_dev]; simp [InRead]⟩
    · obtain ⟨time, idle⟩ := takesNoTime_decoderMove place hs hp hy (reads inRead) done
      exact ⟨time, fun _ => idle⟩
  refine ⟨?_, fun inRead' => absurd inRead' (deviceMove_outside inRead).2⟩
  obtain ⟨-, e⟩ | ⟨hy, hs, e⟩
    | ⟨hy, hs, ⟨hp, -, -⟩ | ⟨hp, -, -⟩ | ⟨hp, e⟩ | ⟨hp, e⟩ | ⟨hp, e⟩ | ⟨hp, e⟩⟩ := deviceMove_cases u
  · rw [e]; exact ⟨le_refl _, le_refl _⟩
  · rw [e]; exact takesNoTime_sendMove byteTime hs hy
  · exact absurd ⟨hs, hp⟩ inRead
  · exact absurd ⟨hs, hp⟩ inRead
  · rw [e]; exact takesNoTime_waiting hs (by simp [hp]) hy (takesNoTime_zoneUpdate hs hp hy)
  · rw [e]; exact takesNoTime_waiting hs (by simp [hp]) hy (takesNoTime_clockFall hs hp)
  · rw [e]; exact takesNoTime_waiting hs (by simp [hp]) hy (takesNoTime_nextZoneBit hs hp)
  · rw [e]; exact takesNoTime_waiting hs (by simp [hp]) hy (takesNoTime_latchFall hs hp hy)

theorem inTime_deviceMove (byteTime : 1 ≤ i.cfg.byteTimeUs) (h : InTime i u) : InTime i (deviceMove u) := by
  obtain ⟨⟨least, most⟩, reads⟩ := takesNoTime_deviceMove (h.cfg ▸ byteTime) h.place h.reads
  have only := deviceMove_deviceOnly u
  refine ⟨only.cfg.trans h.cfg, decoderInPlace_deviceMove h.place, reads, ?_, ?_⟩ <;> rw [only.now]
  · exact h.least.trans (Nat.add_le_add_left least _)
  · exact (Nat.add_le_add_left most _).trans h.most

/-- A tick that the device waits for takes one tick, or more, from what is left. -/
theorem inTime_tick (hy : u.dev.yielded = true) (await : u.dev.state ≠ .awaitRequest) (h : InTime i u) :
    InTime i (deviceTransmit (elapse u)) where
  cfg := by simpa using h.cfg
  place := decoderInPlace_congr h.place (by simp) (by simp) (by simp)
  reads := by simpa [InRead] using h.reads
  least := by
    have least := h.least
    rw [leastLeft_tick hy await] at least
    simp only [deviceTransmit_now, elapse_now]
    omega
  most := by
    have most := h.most
    have left := mostLeft_tick hy await
    simp only [deviceTransmit_now, elapse_now]
    omega

end InTime

/-- A cycle stays within its bounds from its fetch on. -/
theorem inTime_deviceCycle (b : Byte) {s : State} (legal : configLegal s.cfg = true) (noRst : noReset s = true) :
    InTime (beginCycle b s) (deviceCycle b s) := by
  obtain ⟨-, -, -, -, -, -, -, byteTime⟩ := (configLegal_iff s.cfg).1 legal
  refine deviceCycle_induct (P := InTime (beginCycle b s)) (fun same h => h.congr same)
    (fun _ => inTime_deviceMove byteTime) (fun _ hy await => inTime_tick hy await) legal noRst ?_
  exact ⟨rfl, (readWithin_beginCycle b s).place, fun _ => by simp, le_refl _, le_refl _⟩

theorem leastLeft_beginCycle (b : Byte) (s : State) : leastLeft (beginCycle b s)
    = s.cfg.tStartUs + s.cfg.adcTimeUs + zoneTicks s.cfg b + 39 * s.cfg.byteTimeUs := by
  have cfg : (beginCycle b s).cfg = s.cfg := rfl
  rw [leastLeft, ticksLeft_of_read rfl rfl]
  simp [cfg]

theorem mostLeft_beginCycle (b : Byte) (s : State) : mostLeft (beginCycle b s)
    = s.cfg.tStartUs + (3 + 2 * s.cfg.nBits) * s.cfg.timerBoundUs + s.cfg.adcTimeUs + zoneTicks s.cfg b
      + flightLeft s + 44 * s.cfg.byteTimeUs := by
  have cfg : (beginCycle b s).cfg = s.cfg := rfl
  have flight : flightLeft (beginCycle b s) = flightLeft s := rfl
  rw [mostLeft, ticksLeft_of_read rfl rfl]
  simp only [readLeft, phaseLeft, phasesLeft, beginCycle_dec, beginCycle_dev, cfg, flight, Bool.toNat_false,
    Nat.add_comm (2 * s.cfg.nBits) 3]
  omega

theorem zoneTicks_le (c : Config) (b : Byte) : zoneTicks c b ≤ 16 * c.clkPulseUs + c.latchPulseUs := by
  unfold zoneTicks
  split <;> omega

/-- The fuel of a cycle is more than it can take, so it ends (44 R180; log 20). -/
theorem deviceCycle_awaits (b : Byte) {s : State} (legal : configLegal s.cfg = true) (noRst : noReset s = true) :
    (deviceCycle b s).dev.state = .awaitRequest := by
  obtain ⟨-, -, -, -, -, -, -, byteTime⟩ := (configLegal_iff s.cfg).1 legal
  refine (runToAwait_awaits_or_now (cycleBound s) (deviceRun (beginCycle b s))).resolve_right fun now => ?_
  have most := (inTime_deviceCycle b legal noRst).most
  have start : (deviceRun (beginCycle b s)).now = s.now := (deviceRun_deviceOnly _).now
  have start' : (beginCycle b s).now = s.now := rfl
  have zone := zoneTicks_le s.cfg b
  have flight : flightLeft s ≤ max 1 s.duart.txRemain := by unfold flightLeft; split <;> omega
  rw [mostLeft_beginCycle, start', deviceCycle, now, start, cycleBound] at most
  simp only [Config.txMsgSize] at most
  omega

/-- Settles O23: at the end of the cycle nothing is left of either bound. -/
theorem cycleTimeIsBounded : Obligations.CycleTimeIsBounded := by
  intro b s legal noRst
  have await := deviceCycle_awaits b legal noRst
  have inTime := inTime_deviceCycle b legal noRst
  have least := inTime.least
  have most := inTime.most
  have zone := zoneTicks_le s.cfg b
  have start : (beginCycle b s).now = s.now := rfl
  rw [leastLeft_beginCycle, leastLeft, ticksLeft_of_await await, start] at least
  rw [mostLeft_beginCycle, mostLeft, ticksLeft_of_await await, start] at most
  refine ⟨await, ?_, ?_⟩
  · rw [zoneTicks] at least
    omega
  · rw [flightLeft] at most
    omega

end Sys2Proof.Machine

/-! The read of a scripted wire: the decoder counts each pulse of the script, and the read ends with what a
well-behaved, a silent or a stuck sensor leaves (spec/41_sensor_frame_decoder.md R120 to R125, R131, R135, R136). -/

namespace Sys2Proof.Machine

/-! ### How the read of a cycle ends (41 R120, 44 R183) -/

/-- The read of `u` is over, and left a decoder for which `Q` holds; after it only `DEC_STATE` is written. -/
def EndedWith (Q : Decoder → Prop) (u : State) : Prop :=
  (∃ d, Q d ∧ u.dec = { d with state := u.dec.state }) ∧ (u.dec.state = .done ∨ ¬ InRead u.dev)

/-- Some moves and ticks of the device's side lead from `u` to the end of its read, and `Q` holds there. -/
inductive EndsWith (Q : Decoder → Prop) : State → Prop
  | ended {u : State} (h : EndedWith Q u) : EndsWith Q u
  | move {u : State} (h : EndsWith Q (deviceMove u)) : EndsWith Q u
  | tick {u : State} (hy : u.dev.yielded = true) (h : EndsWith Q (deviceTransmit (elapse u))) : EndsWith Q u

theorem SameDevice.deviceMove {u v : State} (h : SameDevice u v) : SameDevice (deviceMove u) (deviceMove v) := by
  have e := deviceMove_withRest u v
  rw [← h] at e
  rw [SameDevice, e]; rfl

section EndsWith

variable {Q : Decoder → Prop} {u v : State}

theorem EndedWith.congr (hd : v.dec = u.dec) (hv : InRead v.dev → InRead u.dev) (h : EndedWith Q u) :
    EndedWith Q v := by
  obtain ⟨left, ended⟩ := h
  exact ⟨by rwa [hd], ended.imp (fun done => by rwa [hd]) fun out inRead => out (hv inRead)⟩

theorem endedWith_deviceMove (h : EndedWith Q u) : EndedWith Q (deviceMove u) := by
  by_cases inRead : InRead u.dev
  swap
  · obtain ⟨same, out⟩ := deviceMove_outside inRead
    exact h.congr same fun inRead' => absurd inRead' out
  obtain ⟨-, e⟩ | ⟨-, -, e⟩ | ⟨-, done, -⟩ := deviceMove_inRead inRead
  · rwa [e]
  · obtain ⟨⟨d, hQ, left⟩, -⟩ := h
    rw [e]
    refine ⟨⟨d, hQ, ?_⟩, .inr ?_⟩
    · rw [takeResult_dec, left]
    · rw [takeResult_dev]; simp [InRead]
  · obtain ⟨-, ended⟩ := h
    exact absurd inRead (ended.resolve_left done)

theorem endsWith_congr (same : SameDevice v u) (h : EndsWith Q u) : EndsWith Q v := by
  induction h generalizing v with
  | ended h => exact .ended (h.congr same.dec fun inRead => same.dev ▸ inRead)
  | move _ ih => exact .move (ih same.deviceMove)
  | tick hy _ ih => exact .tick (by rw [same.dev]; exact hy) (ih same.elapse.deviceTransmit)

/-- A device that has reached a tick moves no more, and any other move is one that led to the end. -/
theorem endsWith_deviceMove (h : EndsWith Q u) : EndsWith Q (deviceMove u) := by
  cases h with
  | ended h => exact .ended (endedWith_deviceMove h)
  | move h => exact h
  | tick hy h =>
    rw [deviceMove_of_settled (by simp [settled, hy])]
    exact .tick hy h

theorem endsWith_tick (hy : u.dev.yielded = true) (h : EndsWith Q u) : EndsWith Q (deviceTransmit (elapse u)) := by
  induction h with
  | ended h => exact .ended (h.congr (by simp) (by simp [InRead]))
  | move _ ih =>
    rw [deviceMove_of_settled (by simp [settled, hy])] at ih
    exact ih hy
  | tick _ h => exact h

/-- A device outside `read_sensor` has left the read that ends so. -/
theorem EndsWith.endedWith (h : EndsWith Q u) (out : ¬ InRead u.dev) : EndedWith Q u := by
  induction h with
  | ended h => exact h
  | @move u _ ih =>
    obtain ⟨same, out'⟩ := deviceMove_outside out
    exact (ih out').congr same.symm fun inRead => absurd inRead out
  | tick _ _ ih => exact (ih (by simpa [InRead] using out)).congr (by simp) fun inRead => absurd inRead out

/-- What the read of a cycle leaves stands at the end of the cycle (44 R183). -/
theorem deviceCycle_dec {b : Byte} {s : State} (legal : configLegal s.cfg = true) (noRst : noReset s = true)
    (h : EndsWith Q (beginCycle b s)) :
    ∃ d, Q d ∧ (deviceCycle b s).dec = { d with state := (deviceCycle b s).dec.state } := by
  have ends : EndsWith Q (deviceCycle b s) :=
    deviceCycle_induct (P := EndsWith Q) endsWith_congr (fun _ => endsWith_deviceMove)
      (fun _ hy _ => endsWith_tick hy) legal noRst h
  have await := deviceCycle_awaits b legal noRst
  obtain ⟨left, -⟩ := ends.endedWith (by simp [InRead, await])
  exact left

end EndsWith

/-! ### A wire that is scripted (10 R42, R48) -/

/-- The wire is scripted from this tick on, and SENSOR's drive begins with `low`. -/
def Begins (low : Bool) (wire : List Segment) : Prop := ∃ more rest, wire = ⟨low, more⟩ :: rest

theorem begins_drive {low : Bool} {n : Nat} (h : 1 ≤ n) (rest : List Segment) : Begins low (drive low n ++ rest) := by
  obtain ⟨k, rfl⟩ : ∃ k, n = k + 1 := ⟨n - 1, by omega⟩
  exact ⟨k, rest, rfl⟩

theorem sensorElapse_drive (low : Bool) (n : Nat) (rest : List Segment) :
    sensorElapse (drive low (n + 1) ++ rest) = drive low n ++ rest := by
  cases n <;> rfl

/-- The level of the line while only SENSOR drives it. -/
def wireLevel (low : Bool) : Level := if low then .low else .high

theorem lineLevel_of_begins {u : State} {low : Bool} (released : u.dec.swDrive = false)
    (h : Begins low u.env.sensor) : lineLevel u = wireLevel low := by
  obtain ⟨more, rest, e⟩ := h
  simp [lineLevel, sensorLow, wireLevel, released, e]

/-! ### The moves of a measurement (40 R110, 41 R122 to R125) -/

/-- The drive of SENSOR that a measuring state waits out. -/
def DecState.waitsOut (d : DecState) : Option Bool :=
  match d with
  | .waitResp | .ackHigh | .bitHigh => some false
  | .ackLow | .bitLow => some true
  | .idle | .start | .check | .done => none

/-- The error of a phase whose measurement finds no transition (41 R124). -/
def DecState.timeout (d : DecState) : DecResult :=
  match d with
  | .bitLow | .bitHigh => .timingTimeout
  | .waitResp | .ackHigh | .ackLow | .idle | .start | .check | .done => .noResponse

/-- The decoder at the head of the loop over the bits (41 R120). -/
def atNextBit (c : Config) (d : Decoder) : Decoder :=
  if d.bitIdx < c.nBits then { d with state := .bitLow, tmrCnt := 0 } else { d with state := .check }

/-- The decoder after a phase that lasted `TMR_CNT` ticks (41 R122 to R125). -/
def afterPulse (c : Config) (d : Decoder) : Decoder :=
  match d.state with
  | .waitResp => { d with state := .ackLow, tmrCnt := 0 }
  | .ackLow => { d with state := .ackHigh, tmrCnt := 0 }
  | .ackHigh => atNextBit c d
  | .bitLow => { d with state := .bitHigh, tmrCnt := 0 }
  | .bitHigh =>
    atNextBit c { d with frame := shiftFrame d.frame (classifyBit c.bitThresholdUs d.tmrCnt), bitIdx := d.bitIdx + 1 }
  | .idle | .start | .check | .done => d

theorem nextBit_eq (u : State) : nextBit u = { u with dec := atNextBit u.cfg u.dec } := by
  unfold atNextBit
  obtain ⟨more, e⟩ | ⟨all, e⟩ := nextBit_cases u <;> rw [e]
  · rw [if_pos more]; rfl
  · rw [if_neg (by omega)]

theorem onMeasure_congr {r : Option MeasureResult} {fail : DecResult} {go go' : Nat → State → State} {u : State}
    (h : ∀ d, r = some (.ok d) → go d u = go' d u) : onMeasure r fail go u = onMeasure r fail go' u := by
  obtain _ | ⟨d⟩ | _ := r
  · rfl
  · exact h d rfl
  · rfl

section Measure

variable {u : State} {low : Bool}

/-- A measuring state counts, fails, or goes on to the decoder after its pulse. -/
theorem decoderMove_of_waitsOut (h : u.dec.state.waitsOut = some low) :
    decoderMove u = onMeasure (measurePoll (wireLevel low) u) u.dec.state.timeout
      (fun _ v => { v with dec := afterPulse v.cfg v.dec }) u := by
  cases hd : u.dec.state <;> rw [hd] at h <;> cases h <;> simp only [decoderMove, hd] <;>
    refine onMeasure_congr fun d poll => ?_
  case waitResp => simp only [afterPulse, hd]; rfl
  case ackLow => simp only [afterPulse, hd]; rfl
  case ackHigh => simp only [afterPulse, hd, nextBit_eq]
  case bitLow => simp only [afterPulse, hd]; rfl
  case bitHigh =>
    obtain ⟨-, -, rfl⟩ := measurePoll_ok poll
    simp only [afterPulse, hd, nextBit_eq]
    rfl

/-- Below the bound the phase counts while the line is at the level it waits out. -/
theorem decoderMove_of_same (h : u.dec.state.waitsOut = some low) (below : u.dec.tmrCnt < u.cfg.timerBoundUs)
    (same : lineLevel u = wireLevel low) : decoderMove u = measureCount u := by
  rw [decoderMove_of_waitsOut h, measurePoll_of_below below, if_pos same]; rfl

/-- Below the bound the other level ends the phase. -/
theorem decoderMove_of_other (h : u.dec.state.waitsOut = some low) (below : u.dec.tmrCnt < u.cfg.timerBoundUs)
    (other : lineLevel u ≠ wireLevel low) : decoderMove u = { u with dec := afterPulse u.cfg u.dec } := by
  rw [decoderMove_of_waitsOut h, measurePoll_of_below below, if_neg other]; rfl

/-- At the bound the phase fails. -/
theorem decoderMove_of_bound (h : u.dec.state.waitsOut = some low) (bound : u.cfg.timerBoundUs ≤ u.dec.tmrCnt) :
    decoderMove u = finishRead u.dec.state.timeout u := by
  rw [decoderMove_of_waitsOut h, measurePoll_of_bound bound]; rfl

end Measure

theorem ne_done_of_waitsOut {d : DecState} {low : Bool} (h : d.waitsOut = some low) : d ≠ .done := by
  rintro rfl
  simp [DecState.waitsOut] at h

/-! ### The read of a decoder on a scripted wire -/

/-- The device is about to move the decoder `d`, with the wire scripted from this tick on. -/
structure OnWire (c : Config) (d : Decoder) (wire : List Segment) (u : State) : Prop where
  cfg : u.cfg = c
  inRead : InRead u.dev
  moves : u.dev.yielded = false
  dec : u.dec = d
  wire : u.env.sensor = wire

/-- The decoder `d` on this wire ends its read with `Q`. -/
def Reads (c : Config) (d : Decoder) (wire : List Segment) (Q : Decoder → Prop) : Prop :=
  ∀ u, OnWire c d wire u → EndsWith Q u

section Reads

variable {c : Config} {d e : Decoder} {wire : List Segment} {Q : Decoder → Prop}

theorem reads_of_done (done : d.state = .done) (h : Q d) : Reads c d wire Q := fun u hu =>
  .ended ⟨⟨d, h, by rw [hu.dec]⟩, .inl (by rw [hu.dec, done])⟩

theorem OnWire.deviceMove {u : State} (h : OnWire c d wire u) (running : d.state ≠ .done) :
    deviceMove u = decoderMove u := by
  obtain ⟨yielded, -⟩ | ⟨-, done, -⟩ | ⟨-, -, e⟩ := deviceMove_inRead h.inRead
  · simp [h.moves] at yielded
  · exact absurd (h.dec ▸ done) running
  · exact e

/-- A move of the decoder within a tick. -/
theorem reads_of_move (running : d.state ≠ .done)
    (move : ∀ u, OnWire c d wire u → decoderMove u = { u with dec := e }) (h : Reads c e wire Q) :
    Reads c d wire Q := fun u hu => by
  refine .move (h _ ?_)
  rw [hu.deviceMove running, move u hu]
  exact ⟨hu.cfg, hu.inRead, hu.moves, rfl, hu.wire⟩

/-- A move of the decoder that reaches a tick. -/
theorem reads_of_tick (running : d.state ≠ .done)
    (move : ∀ u, OnWire c d wire u → decoderMove u = yieldTick { u with dec := e })
    (h : Reads c e (sensorElapse wire) Q) : Reads c d wire Q := fun u hu => by
  have moved : deviceMove u = yieldTick { u with dec := e } := by rw [hu.deviceMove running, move u hu]
  refine .move (.tick (by rw [moved]; rfl) (h _ ?_))
  rw [moved]
  exact ⟨by simp [hu.cfg], by simpa [InRead] using hu.inRead, by simp, by simp,
    by rw [deviceTransmit_eq]; simp [hu.wire]⟩

theorem OnWire.startSignal {u : State} (h : OnWire c d wire u) (signal : d.state = .start) :
    decoderMove u = startSignal u := by simp only [decoderMove, h.dec, signal]

/-- The start signal, which passes `k` ticks of the wire (41 R121, R122). -/
theorem reads_signal (k : Nat) {m : Nat} {low : Bool} {rest : List Segment} (signal : d.state = .start)
    (length : d.startCnt + k = c.tStartUs)
    (next : Reads c { d with state := .waitResp, swDrive := false, startCnt := c.tStartUs, tmrCnt := 0 }
      (drive low m ++ rest) Q) : Reads c d (drive low (m + k) ++ rest) Q := by
  induction k generalizing d with
  | zero =>
    refine reads_of_move (by simp [signal]) (fun u hu => ?_) next
    rw [hu.startSignal signal, startSignal, if_neg (by rw [hu.dec, hu.cfg]; omega), ← length]
    simp [measureStart, hu.dec]
  | succ k ih =>
    refine reads_of_tick (e := { d with startCnt := d.startCnt + 1 }) (by simp [signal]) (fun u hu => ?_) ?_
    · rw [hu.startSignal signal, startSignal, if_pos (by rw [hu.dec, hu.cfg]; omega), hu.dec]
    · rw [← Nat.add_assoc, sensorElapse_drive]
      exact ih signal (by simp only; omega) next

/-- A phase counts `k` ticks of the level that it waits out (40 R110). -/
theorem reads_count (k : Nat) {m : Nat} {low : Bool} {rest : List Segment} (h : d.state.waitsOut = some low)
    (released : d.swDrive = false) (bound : d.tmrCnt + k ≤ c.timerBoundUs)
    (next : Reads c { d with tmrCnt := d.tmrCnt + k } (drive low m ++ rest) Q) :
    Reads c d (drive low (m + k) ++ rest) Q := by
  induction k generalizing d with
  | zero => exact next
  | succ k ih =>
    refine reads_of_tick (e := { d with tmrCnt := d.tmrCnt + 1 }) (ne_done_of_waitsOut h) (fun u hu => ?_) ?_
    · have same : lineLevel u = wireLevel low :=
        lineLevel_of_begins (by rw [hu.dec, released]) (by rw [hu.wire]; exact begins_drive (by omega) rest)
      rw [decoderMove_of_same (by rw [hu.dec]; exact h) (by rw [hu.dec, hu.cfg]; omega) same, measureCount, hu.dec]
    · rw [← Nat.add_assoc, sensorElapse_drive]
      refine ih h released (by simp only; omega) ?_
      rwa [Nat.add_right_comm, Nat.add_assoc]

/-- A phase that has lasted a number of ticks below the bound ends at the other level. -/
theorem reads_pulse {n : Nat} {low : Bool} (h : d.state.waitsOut = some low) (released : d.swDrive = false)
    (start : d.tmrCnt = 0) (below : n < c.timerBoundUs) (other : Begins (!low) wire)
    (next : Reads c (afterPulse c { d with tmrCnt := n }) wire Q) : Reads c d (drive low n ++ wire) Q := by
  have counted := reads_count (c := c) (Q := Q) (m := 0) (rest := wire) n h released (by omega)
  rw [start, Nat.zero_add] at counted
  refine counted (reads_of_move (ne_done_of_waitsOut h) (fun u hu => ?_) next)
  have level : lineLevel u = wireLevel (!low) :=
    lineLevel_of_begins (by rw [hu.dec]; exact released) (by rw [hu.wire]; exact other)
  rw [decoderMove_of_other (low := low) (by rw [hu.dec]; exact h) (by rw [hu.dec, hu.cfg]; exact below)
    (by rw [level]; cases low <;> simp [wireLevel]), hu.cfg, hu.dec]

/-- A phase whose level lasts a whole timer bound fails (41 R124). -/
theorem reads_timeout {n : Nat} {low : Bool} {rest : List Segment} (h : d.state.waitsOut = some low)
    (released : d.swDrive = false) (start : d.tmrCnt = 0) (bound : c.timerBoundUs ≤ n)
    (left : Q { d with swDrive := false, tmrCnt := c.timerBoundUs, result := d.state.timeout, state := .done }) :
    Reads c d (drive low n ++ rest) Q := by
  obtain ⟨m, rfl⟩ : ∃ m, n = m + c.timerBoundUs := ⟨n - c.timerBoundUs, by omega⟩
  refine reads_count c.timerBoundUs h released (by omega) ?_
  rw [start, Nat.zero_add]
  refine reads_of_move (ne_done_of_waitsOut h) (fun u hu => ?_) (reads_of_done rfl left)
  rw [decoderMove_of_bound (by rw [hu.dec]; exact h) (by rw [hu.dec, hu.cfg]), finishRead, hu.dec]

/-- With all bits in, the checksum decides what the read leaves (41 R127, R128). -/
theorem reads_check (check : d.state = .check)
    (good : checksumOk d.frame = true → Q { d with
      swDrive := false, result := .ok, state := .done, tempTenths := BitVec.ofInt 12 (frameTemp d.frame)
      humTenths := BitVec.ofNat 12 (frameHum d.frame), tempValid := true })
    (bad : checksumOk d.frame = false → Q { d with swDrive := false, result := .checksumError, state := .done }) :
    Reads c d wire Q := by
  have running : d.state ≠ .done := by simp [check]
  have move : ∀ {u}, OnWire c d wire u → decoderMove u = checkFrame u := fun hu => by
    simp only [decoderMove, hu.dec, check]
  cases sum : checksumOk d.frame
  · refine reads_of_move running (fun u hu => ?_) (reads_of_done rfl (bad sum))
    simp only [move hu, checkFrame, hu.dec, sum, finishRead, Bool.false_eq_true, if_false]
  · refine reads_of_move running (fun u hu => ?_) (reads_of_done rfl (good sum))
    simp only [move hu, checkFrame, hu.dec, sum, finishRead, commitFrame, if_true]

/-! ### The widths of a well-behaved sensor (41 R135) -/

theorem begins_pulseScript {w : Widths} (bitLow : 1 ≤ w.bitLow) (bits : List Bool) (h : Begins true wire) :
    Begins true (pulseScript w bits ++ wire) := by
  cases bits with
  | nil => exact h
  | cons b rest =>
    rw [pulseScript, List.append_assoc, List.append_assoc]
    exact begins_drive bitLow _

variable {w : Widths} (legal : widthsLegal c w = true)
include legal

theorem widths_bounds : w.gap < c.timerBoundUs ∧ (1 ≤ w.ackLow ∧ w.ackLow < c.timerBoundUs)
    ∧ (1 ≤ w.ackHigh ∧ w.ackHigh < c.timerBoundUs) ∧ (1 ≤ w.bitLow ∧ w.bitLow < c.timerBoundUs) ∧ 1 ≤ w.endLow := by
  simp only [widthsLegal, Bool.and_eq_true, decide_eq_true_eq] at legal
  omega

/-- The high pulse of a bit is there, ends below the bound, and is classified as that bit. -/
theorem bitWidth_bounds (b : Bool) : 1 ≤ (if b then w.one else w.zero) ∧ (if b then w.one else w.zero) < c.timerBoundUs
    ∧ classifyBit c.bitThresholdUs (if b then w.one else w.zero) = b := by
  simp only [widthsLegal, Bool.and_eq_true, decide_eq_true_eq] at legal
  cases b
  · simp only [Bool.false_eq_true, if_false, classifyBit, decide_eq_false_iff_not]
    omega
  · simp only [if_true, classifyBit, decide_eq_true_eq]
    omega

/-- The handshake leads to the head of the loop over the bits (41 R122, R123). -/
theorem reads_handshake (hd : d.state = .waitResp) (released : d.swDrive = false) (start : d.tmrCnt = 0)
    (bit : Begins true wire) (next : Reads c (atNextBit c { d with state := .ackHigh, tmrCnt := w.ackHigh }) wire Q) :
    Reads c d (drive false w.gap ++ (drive true w.ackLow ++ (drive false w.ackHigh ++ wire))) Q := by
  obtain ⟨gap, ⟨ackLow, ackLow'⟩, ⟨ackHigh, ackHigh'⟩, -⟩ := widths_bounds legal
  refine reads_pulse (by rw [hd]; rfl) released start gap (begins_drive ackLow _) ?_
  simp only [afterPulse, hd]
  refine reads_pulse rfl released rfl ackLow' (begins_drive ackHigh _) ?_
  exact reads_pulse rfl released rfl ackHigh' bit next

/-- Each bit on the wire is counted and enters the frame (41 R124, R125). -/
theorem reads_bits (bits : List Bool) (released : d.swDrive = false) (room : d.bitIdx + bits.length ≤ c.nBits)
    (low : Begins true wire)
    (next : ∀ t, Reads c (atNextBit c { d with
      tmrCnt := t, frame := bits.foldl shiftFrame d.frame, bitIdx := d.bitIdx + bits.length }) wire Q) :
    Reads c (atNextBit c d) (pulseScript w bits ++ wire) Q := by
  obtain ⟨-, -, -, ⟨bitLow, bitLow'⟩, -⟩ := widths_bounds legal
  induction bits generalizing d with
  | nil => exact next d.tmrCnt
  | cons b rest ih =>
    obtain ⟨there, below, classified⟩ := bitWidth_bounds legal b
    simp only [List.length_cons] at room next
    rw [atNextBit, if_pos (by omega), pulseScript, List.append_assoc, List.append_assoc]
    refine reads_pulse rfl released rfl bitLow' (begins_drive there _) ?_
    refine reads_pulse rfl released rfl below (begins_pulseScript bitLow rest low) ?_
    simp only [afterPulse, classified]
    refine ih released (by simp only; omega) fun t => ?_
    simp only [List.foldl_cons, Nat.add_assoc, Nat.add_comm 1] at next ⊢
    exact next t

/-- A read on a wire that answers the start signal with the handshake and some bits is a read on what follows them. -/
theorem reads_answer (bits : List Bool) (hd : d.state = .start) (start : d.startCnt = 0)
    (room : d.bitIdx + bits.length ≤ c.nBits) (low : Begins true wire)
    (next : ∀ t, Reads c (atNextBit c { d with
      swDrive := false, startCnt := c.tStartUs, tmrCnt := t, frame := bits.foldl shiftFrame d.frame
      bitIdx := d.bitIdx + bits.length }) wire Q) :
    Reads c d (drive false c.tStartUs ++ drive false w.gap ++ drive true w.ackLow ++ drive false w.ackHigh
      ++ pulseScript w bits ++ wire) Q := by
  obtain ⟨-, -, -, ⟨bitLow, -⟩, -⟩ := widths_bounds legal
  have whole : drive false c.tStartUs = drive false (0 + c.tStartUs) := by rw [Nat.zero_add]
  simp only [whole, List.append_assoc]
  refine reads_signal c.tStartUs hd (by omega) ?_
  refine reads_handshake legal rfl rfl rfl (begins_pulseScript bitLow bits low) ?_
  exact reads_bits legal bits rfl room low next

end Reads

theorem onWire_beginCycle (b : Byte) (s : State) :
    OnWire s.cfg (beginCycle b s).dec s.env.sensor (beginCycle b s) := ⟨rfl, ⟨rfl, rfl⟩, rfl, rfl, rfl⟩

/-! ### A stuck wire (41 R124, R136) -/

section Stuck

variable {b : Byte} {s : State} {n : Nat} {rest : List Segment} {Q : Decoder → Prop}

/-- With the wire at one level for the start signal and a timer bound the first or the second measurement fails. -/
theorem reads_of_silent (bound : 1 ≤ s.cfg.timerBoundUs) (low : Bool) (long : s.cfg.tStartUs + s.cfg.timerBoundUs ≤ n) :
    Reads s.cfg (beginCycle b s).dec (drive low n ++ rest)
      (fun d => d.result = .noResponse ∧ d.bitIdx = 0 ∧ HeldAs s.dec d) := by
  obtain ⟨m, rfl⟩ : ∃ m, n = m + s.cfg.tStartUs := ⟨n - s.cfg.tStartUs, by omega⟩
  refine reads_signal s.cfg.tStartUs rfl (Nat.zero_add _) ?_
  cases low
  · exact reads_timeout rfl rfl rfl (by omega) ⟨rfl, rfl, HeldAs.refl s.dec⟩
  · refine reads_pulse (n := 0) (low := false) rfl rfl rfl bound (begins_drive (by omega) rest) ?_
    exact reads_timeout rfl rfl rfl (by omega) ⟨rfl, rfl, HeldAs.refl s.dec⟩

/-- With the wire stuck after some bits the measurement of the next bit's low or high phase fails. -/
theorem reads_of_brokenOff {w : Widths} (legal : widthsLegal s.cfg w = true) (bits : List Bool)
    (room : bits.length < s.cfg.nBits) (low : Bool) (one : 1 ≤ s.cfg.timerBoundUs) (long : s.cfg.timerBoundUs ≤ n) :
    Reads s.cfg (beginCycle b s).dec (breakOffScript s.cfg w bits low n ++ rest)
      (fun d => d.result = .timingTimeout ∧ d.bitIdx = bits.length ∧ d.tmrCnt = s.cfg.timerBoundUs
        ∧ HeldAs s.dec d) := by
  obtain ⟨-, -, -, ⟨bitLow, bitLow'⟩, -⟩ := widths_bounds legal
  have held : 1 ≤ n := one.trans long
  rw [breakOffScript, List.append_assoc, List.append_assoc]
  have begins : Begins true ((if low then [] else drive true w.bitLow) ++ (drive low n ++ rest)) := by
    cases low
    · exact begins_drive bitLow _
    · exact begins_drive held rest
  refine reads_answer legal bits rfl rfl ((Nat.zero_add _).trans_le room.le) begins fun t => ?_
  rw [atNextBit, if_pos (by simpa using room)]
  cases low
  · refine reads_pulse rfl rfl rfl bitLow' (begins_drive held rest) ?_
    exact reads_timeout rfl rfl rfl long ⟨rfl, Nat.zero_add _, rfl, HeldAs.refl s.dec⟩
  · exact reads_timeout rfl rfl rfl long ⟨rfl, Nat.zero_add _, rfl, HeldAs.refl s.dec⟩

end Stuck

/-- Settles O27: the two reads above, whose outcome stands at the end of the cycle. -/
theorem stuckWireGivesNoFrame : Obligations.StuckWireGivesNoFrame := by
  intro b s low n rest legal noRst
  obtain ⟨timer, -⟩ := (configLegal_iff s.cfg).1 legal
  have one : 1 ≤ s.cfg.timerBoundUs := by omega
  refine ⟨fun long wire => ?silent, fun w bits widths room long wire => ?broken⟩
  case silent =>
    have reads := reads_of_silent (b := b) (rest := rest) one low long
    rw [← wire] at reads
    obtain ⟨d, ⟨result, count, held⟩, left⟩ := deviceCycle_dec legal noRst (reads _ (onWire_beginCycle b s))
    rw [left]
    exact ⟨result, count, held⟩
  case broken =>
    have reads := reads_of_brokenOff (b := b) (rest := rest) widths bits room low one long
    rw [← wire] at reads
    obtain ⟨d, ⟨result, count, timer, held⟩, left⟩ := deviceCycle_dec legal noRst (reads _ (onWire_beginCycle b s))
    rw [left]
    exact ⟨result, count, timer, held⟩

/-! ### A whole frame (30 R82, 41 R131, R135) -/

/-- The `n` low bits of a frame, the highest first. -/
def frameBits (f : BitVec 40) (n : Nat) : List Bool :=
  match n with
  | 0 => []
  | n + 1 => f.getLsbD n :: frameBits f n

theorem length_frameBits (f : BitVec 40) (n : Nat) : (frameBits f n).length = n := by
  induction n with
  | zero => rfl
  | succ n ih => rw [frameBits, List.length_cons, ih]

theorem bitScript_eq (w : Widths) (f : BitVec 40) (n : Nat) : bitScript w f n = pulseScript w (frameBits f n) := by
  induction n with
  | zero => rfl
  | succ n ih => rw [bitScript, frameBits, pulseScript, ih]

/-- Bits shifted in, the highest first, are the low bits of the frame, and those that were there move up. -/
theorem getLsbD_foldl_shiftFrame (f g : BitVec 40) (n i : Nat) (hi : i < 40) :
    ((frameBits f n).foldl shiftFrame g).getLsbD i = if i < n then f.getLsbD i else g.getLsbD (i - n) := by
  induction n generalizing g with
  | zero => simp [frameBits]
  | succ n ih =>
    rw [frameBits, List.foldl_cons, ih]
    obtain below | rfl | ⟨k, rfl⟩ : i < n ∨ i = n ∨ ∃ k, i = n + 1 + k := by
      obtain below | above := Nat.lt_or_ge i (n + 1)
      · omega
      · exact .inr (.inr ⟨i - (n + 1), by omega⟩)
    · simp [below, Nat.lt_succ_of_lt below]
    · rw [if_neg (lt_irrefl i), if_pos (Nat.lt_succ_self i), Nat.sub_self, getLsbD_zero_shiftFrame]
    · have up : n + 1 + k - n = k + 1 := by omega
      rw [if_neg (by omega), if_neg (by omega), up, getLsbD_succ_shiftFrame _ _ (by omega), Nat.add_sub_cancel_left]

theorem foldl_shiftFrame (f g : BitVec 40) : (frameBits f 40).foldl shiftFrame g = f :=
  BitVec.eq_of_getLsbD_eq fun i hi => by rw [getLsbD_foldl_shiftFrame f g 40 i hi, if_pos hi]

/-- What the read of the frame `f` leaves, where the held values were those of `e`. -/
def ReadFrame (e : Decoder) (f : BitVec 40) (d : Decoder) : Prop :=
  d.frame = f ∧ d.bitIdx = 40
    ∧ (∀ r : Reading, decodeFrame f = some r →
        d.result = .ok ∧ d.tempTenths.toInt = r.temp ∧ d.humTenths.toNat = r.hum ∧ d.tempValid = true)
    ∧ (decodeFrame f = none →
        d.result = .checksumError ∧ d.tempTenths = e.tempTenths ∧ d.humTenths = e.humTenths)

theorem reads_of_wellBehaved (b : Byte) {s : State} {w : Widths} (legal : widthsLegal s.cfg w = true)
    (bits : s.cfg.nBits = 40) (f : BitVec 40) (rest : List Segment) :
    Reads s.cfg (beginCycle b s).dec (sensorScript s.cfg w f ++ rest) (ReadFrame s.dec f) := by
  obtain ⟨-, -, -, -, endLow⟩ := widths_bounds legal
  rw [sensorScript, bitScript_eq, List.append_assoc]
  refine reads_answer legal (frameBits f 40) rfl rfl ?_ (begins_drive endLow rest) fun t => ?_
  · rw [length_frameBits, bits]; exact le_refl 40
  rw [length_frameBits, foldl_shiftFrame, atNextBit, if_neg (by simp [bits])]
  refine reads_check rfl (fun good => ?_) fun bad => ?_
  · have decoded : decodeFrame f = some ⟨frameTemp f, frameHum f⟩ := by rw [decodeFrame, good]; rfl
    refine ⟨rfl, rfl, fun r hr => ?_, fun discarded => ?_⟩
    · obtain rfl := Option.some.inj (decoded.symm.trans hr)
      exact ⟨rfl, toInt_frameTemp f, toNat_frameHum f, rfl⟩
    · simp [decoded] at discarded
  · have discarded : decodeFrame f = none := by rw [decodeFrame, bad]; rfl
    refine ⟨rfl, rfl, fun r hr => ?_, fun _ => ⟨rfl, rfl, rfl⟩⟩
    simp [discarded] at hr

/-- Settles O28. -/
theorem wellBehavedSensorIsDecoded : Obligations.WellBehavedSensorIsDecoded := by
  intro b s w f rest legal bits noRst widths wire
  have reads := reads_of_wellBehaved b widths bits f rest
  rw [← wire] at reads
  obtain ⟨d, read, left⟩ := deviceCycle_dec legal noRst (reads _ (onWire_beginCycle b s))
  simp only
  rw [left]
  exact read

end Sys2Proof.Machine

/-! The wires of the zone actuator on their own: what each edge does, and how eight clock pulses and a latch pulse load
a mask (spec/42_zone_actuator.md R150 to R153). -/

namespace Sys2Proof.Machine

/-! ### The edges of `ZCLK` and `ZLATCH` (42 R151, R152; log 30) -/

theorem setZclk_true_of_high {s : State} (high : s.zact.zclk = true) : (setZclk true s).zact.zsr = s.zact.zsr := by
  simp [setZclk, high]

theorem setZlatch_true_zact {s : State} (low : s.zact.zlatch = false) :
    (setZlatch true s).zact = { s.zact with zlatch := true, zout := s.zact.zsr } := by
  simp [setZlatch, low]

theorem setZlatch_true_of_high {s : State} (high : s.zact.zlatch = true) :
    (setZlatch true s).zact.zout = s.zact.zout := by
  simp [setZlatch, high]

theorem setZclk_false_zact (s : State) : (setZclk false s).zact = { s.zact with zclk := false } := rfl

theorem setZlatch_false_zact (s : State) : (setZlatch false s).zact = { s.zact with zlatch := false } := rfl

/-- The model's shift, written as the register with the bit put behind it (42 R151). -/
theorem shiftIn_eq_append (r : Byte) (b : Bool) :
    (r <<< 1) ||| BitVec.zeroExtend 8 (BitVec.ofBool b) = BitVec.truncate 8 (r ++ BitVec.ofBool b) := by
  refine BitVec.eq_of_toNat_eq ?_
  have joined : r.toNat <<< 1 ||| b.toNat = 2 * r.toNat + b.toNat := by
    rw [← Nat.shiftLeft_add_eq_or_of_lt b.toNat_lt, Nat.shiftLeft_eq]; omega
  rw [toNat_shiftIn, BitVec.truncate, BitVec.toNat_setWidth, BitVec.toNat_append, BitVec.toNat_ofBool, joined]

/-- Settles O17: the four drives of `ZCLK`, and `setZclk_eq` for what stays. -/
theorem clockRiseShifts : Obligations.ClockRiseShifts := by
  intro s
  refine ⟨fun low => ?rise, setZclk_true_of_high, ?fall, fun v => setZclk_eq v s⟩
  case rise => rw [setZclk_true_zact low]; exact shiftIn_eq_append s.zact.zsr s.zact.zdata
  case fall => rw [setZclk_false_zact]

/-- Settles O18: the four drives of `ZLATCH`, and `setZlatch_eq` for what stays. -/
theorem latchRiseCopies : Obligations.LatchRiseCopies := by
  intro s
  refine ⟨fun low => ?rise, setZlatch_true_of_high, ?fall, fun v => setZlatch_eq v s⟩
  case rise => rw [setZlatch_true_zact low]
  case fall => rw [setZlatch_false_zact]

/-! ### Clock pulses and the latch pulse (42 R150, R153) -/

/-- One bit of the mask clocked in: data, rise, fall (42 R150). -/
def clockBit (m : Byte) (u : State) (i : Nat) : State :=
  setZclk false (setZclk true { u with zact.zdata := m.getLsbD i })

theorem clockBit_zact (m : Byte) {u : State} (i : Nat) (low : u.zact.zclk = false) :
    (clockBit m u i).zact = { u.zact with
      zdata := m.getLsbD i, zclk := false
      zsr := (u.zact.zsr <<< 1) ||| BitVec.zeroExtend 8 (BitVec.ofBool (m.getLsbD i)) } := by
  rw [clockBit, setZclk_false_zact, setZclk_true_zact (s := { u with zact.zdata := m.getLsbD i }) low]

/-- From the wires and relays of `e`, the bits of `m` from bit 7 down to bit `n` are clocked in. -/
structure ClockedTo (m : Byte) (e : Actuator) (n : Nat) (a : Actuator) : Prop where
  sent : a.zsr.toNat % 2 ^ (8 - n) = m.toNat / 2 ^ n
  clock : a.zclk = false
  latch : a.zlatch = e.zlatch
  relays : a.zout = e.zout

section ClockPulses

variable {m : Byte} {e : Actuator} {u : State}

/-- Before the first pulse nothing is asked of `ZSR`. -/
theorem clockedTo_eight (low : e.zclk = false) : ClockedTo m e 8 e where
  sent := by simp [Nat.mod_one, Nat.div_eq_of_lt m.isLt]
  clock := low
  latch := rfl
  relays := rfl

theorem clockedTo_clockBit {n : Nat} (hn : n < 8) (h : ClockedTo m e (n + 1) u.zact) :
    ClockedTo m e n (clockBit m u n).zact := by
  rw [clockBit_zact m n h.clock]
  exact { sent := shiftIn_follows hn h.sent, clock := rfl, latch := h.latch, relays := h.relays }

theorem clockedTo_foldl {n : Nat} (hn : n ≤ 8) (h : ClockedTo m e n u.zact) :
    ClockedTo m e 0 ((List.range n).reverse.foldl (clockBit m) u).zact := by
  induction n generalizing u with
  | zero => exact h
  | succ n ih =>
    rw [List.range_succ, List.reverse_concat, List.foldl_cons]
    exact ih (by omega) (clockedTo_clockBit hn h)

/-- With the last bit clocked in `ZSR` is the mask. -/
theorem ClockedTo.zsr_eq {a : Actuator} (h : ClockedTo m e 0 a) : a.zsr = m := by
  have byte := a.zsr.isLt
  refine BitVec.eq_of_toNat_eq ?_
  simpa [Nat.mod_eq_of_lt byte] using h.sent

end ClockPulses

theorem latchPulse_zact {s : State} (low : s.zact.zlatch = false) :
    (setZlatch false (setZlatch true s)).zact = { s.zact with zlatch := false, zout := s.zact.zsr } := by
  rw [setZlatch_false_zact, setZlatch_true_zact low]

/-- Settles O19: eight pulses bring in every bit of the mask, and the latch is still low for its pulse. -/
theorem eightClocksLoadTheMask : Obligations.EightClocksLoadTheMask := by
  intro m s idle
  obtain ⟨clockLow, latchLow⟩ : s.zact.zclk = false ∧ s.zact.zlatch = false := by simpa [wiresIdle] using idle
  intro t
  have loaded : ClockedTo m s.zact 0 t.zact := clockedTo_foldl (n := 8) (le_refl 8) (clockedTo_eight clockLow)
  rw [latchPulse_zact (loaded.latch.trans latchLow)]
  exact ⟨loaded.zsr_eq, loaded.relays, loaded.zsr_eq, loaded.zsr_eq⟩

end Sys2Proof.Machine

/-! The serial transport (spec/43_serial_transport.md R160 to R171): what each receiver takes, and how a byte written to
a transmitter is counted through its flight and then meets the channel's choice. -/

namespace Sys2Proof.Machine

/-! ### The receivers (43 R163, R171) -/

theorem deviceReceive_of_free (c : Byte) {s : State} (free : s.duart.rxFull = false) :
    deviceReceive c s = { s with duart.rxd := c, duart.rxFull := true } := by
  simp [deviceReceive, latchRxd, free]

theorem deviceReceive_of_unread (c : Byte) {s : State} (unread : s.duart.rxFull = true) : deviceReceive c s = s :=
  if_pos unread

theorem hostReceive_of_room (c : Byte) {s : State} (opened : s.host.lineOpen = true)
    (room : s.host.hrxdQ.length < s.cfg.hostFifoDepth) :
    hostReceive c s = { s with host.hrxdQ := s.host.hrxdQ ++ [c] } :=
  if_pos (by simp [opened, room])

theorem hostReceive_of_shut (c : Byte) {s : State}
    (shut : s.host.lineOpen = false ∨ s.cfg.hostFifoDepth ≤ s.host.hrxdQ.length) : hostReceive c s = s := by
  obtain e | ⟨opened, room, -⟩ := hostReceive_cases c s
  · exact e
  · obtain closed | full := shut
    · simp [opened] at closed
    · omega

/-- Settles O29. -/
theorem overrunKeepsTheOlderByte : Obligations.OverrunKeepsTheOlderByte :=
  fun c _ => ⟨deviceReceive_of_free c, deviceReceive_of_unread c⟩

/-- Settles O30. -/
theorem hostQueueNeedsAnOpenLine : Obligations.HostQueueNeedsAnOpenLine :=
  fun c _ => ⟨hostReceive_of_room c, hostReceive_of_shut c⟩

/-! ### The channel's choice at the end of a flight (43 R166; log 2) -/

section Deliveries

variable {b : Byte} {s : State}

theorem deliverD2H_of_lost (lost : chanFate .d2h b s.env.chanD2H s.now = none) :
    deliverD2H b s = { s with env.chanD2H := s.env.chanD2H.tail } := by
  simp [deliverD2H, lost]

theorem deliverD2H_of_given {c : Byte} (given : chanFate .d2h b s.env.chanD2H s.now = some c) :
    deliverD2H b s = hostReceive c { s with env.chanD2H := s.env.chanD2H.tail } := by
  simp [deliverD2H, given]

theorem deliverH2D_of_lost (lost : chanFate .h2d b s.env.chanH2D s.now = none) :
    deliverH2D b s = { s with env.chanH2D := s.env.chanH2D.tail } := by
  simp [deliverH2D, lost]

theorem deliverH2D_of_given {c : Byte} (given : chanFate .h2d b s.env.chanH2D s.now = some c) :
    deliverH2D b s = deviceReceive c { s with env.chanH2D := s.env.chanH2D.tail } := by
  simp [deliverH2D, given]

end Deliveries

/-! ### The count of a flight (43 R161, R165, R168) -/

/-- The turns of a transmitter, from what each single turn but the last does. -/
theorem iterate_of_turns {f : State → State} {g : Nat → State} {n : Nat}
    (turn : ∀ k, k + 1 < n → f (g k) = g (k + 1)) : ∀ k, k < n → Nat.iterate f k (g 0) = g k
  | 0, _ => rfl
  | k + 1, hk => by rw [Function.iterate_succ_apply', iterate_of_turns turn k (by omega), turn k hk]

/-- `s` with `k` ticks of the device's flight counted. -/
def flightAt (s : State) (k : Nat) : State := { s with duart.txRemain := s.duart.txRemain - k }

/-- `s` with `k` ticks of the host's flight counted. -/
def hostFlightAt (s : State) (k : Nat) : State := { s with host.htxRemain := s.host.htxRemain - k }

section DeviceFlight

variable {s : State} (busy : s.duart.txReady = false)
include busy

theorem deviceTransmit_flightAt {k : Nat} (more : k + 1 < max 1 s.duart.txRemain) :
    deviceTransmit (flightAt s k) = flightAt s (k + 1) := by
  obtain ⟨ready, -⟩ | ⟨-, last, -⟩ | ⟨-, -, e⟩ := deviceTransmit_cases (flightAt s k)
  · simp [flightAt, busy] at ready
  · simp only [flightAt] at last; omega
  · rw [e]; simp [flightAt, Nat.sub_sub]

theorem deviceTransmit_iterate : ∀ k, k < max 1 s.duart.txRemain → Nat.iterate deviceTransmit k s = flightAt s k :=
  iterate_of_turns (g := flightAt s) fun _ => deviceTransmit_flightAt busy

/-- A flight already at its end (`TX_REMAIN = 0`) still takes the one turn that ends it. -/
theorem deviceTransmit_iterate_flight :
    Nat.iterate deviceTransmit (max 1 s.duart.txRemain) s = deliverD2H s.duart.txd (txDone s) := by
  obtain ⟨n, hn⟩ : ∃ n, max 1 s.duart.txRemain = n + 1 := ⟨max 1 s.duart.txRemain - 1, by omega⟩
  rw [hn, Function.iterate_succ_apply', deviceTransmit_iterate busy n (by omega)]
  obtain ⟨ready, -⟩ | ⟨-, -, e⟩ | ⟨-, more, -⟩ := deviceTransmit_cases (flightAt s n)
  · simp [flightAt, busy] at ready
  · exact e
  · simp only [flightAt] at more; omega

end DeviceFlight

section HostFlight

variable {s : State} (busy : s.host.htxReady = false)
include busy

theorem hostTransmit_flightAt {k : Nat} (more : k + 1 < max 1 s.host.htxRemain) :
    hostTransmit (hostFlightAt s k) = hostFlightAt s (k + 1) := by
  obtain ⟨ready, -⟩ | ⟨-, last, -⟩ | ⟨-, last, -⟩ | ⟨-, -, e⟩ := hostTransmit_cases (hostFlightAt s k)
  · simp [hostFlightAt, busy] at ready
  · simp only [hostFlightAt] at last; omega
  · simp only [hostFlightAt] at last; omega
  · rw [e]; simp [hostFlightAt, Nat.sub_sub]

theorem hostTransmit_iterate : ∀ k, k < max 1 s.host.htxRemain → Nat.iterate hostTransmit k s = hostFlightAt s k :=
  iterate_of_turns (g := hostFlightAt s) fun _ => hostTransmit_flightAt busy

/-- The last turn delivers, unless the flight carries the mark of a lost one (70 R261; log 13). -/
theorem hostTransmit_iterate_flight :
    Nat.iterate hostTransmit (max 1 s.host.htxRemain) s =
      if s.line.h2dLost then htxDone s else deliverH2D s.host.htxd (htxDone s) := by
  obtain ⟨n, hn⟩ : ∃ n, max 1 s.host.htxRemain = n + 1 := ⟨max 1 s.host.htxRemain - 1, by omega⟩
  rw [hn, Function.iterate_succ_apply', hostTransmit_iterate busy n (by omega)]
  obtain ⟨ready, -⟩ | ⟨-, -, lost, e⟩ | ⟨-, -, kept, e⟩ | ⟨-, more, -⟩ := hostTransmit_cases (hostFlightAt s n)
  · simp [hostFlightAt, busy] at ready
  · rw [if_pos (show s.line.h2dLost = true from lost)]; exact e
  · rw [if_neg (Bool.eq_false_iff.1 (show s.line.h2dLost = false from kept))]; exact e
  · simp only [hostFlightAt] at more; omega

end HostFlight

/-- Settles O31: the count of the flight that `sendByte` starts, and the three ways its fate is chosen. -/
theorem flightTakesOneByteTime : Obligations.FlightTakesOneByteTime := by
  intro b s n positive
  have whole : max 1 (sendByte b s).duart.txRemain = s.cfg.byteTimeUs := max_eq_right positive
  refine ⟨fun inFlight => deviceTransmit_iterate (s := sendByte b s) rfl n (whole ▸ inFlight), ?_⟩
  have arrives := deviceTransmit_iterate_flight (s := sendByte b s) rfl
  rw [whole] at arrives
  intro landed
  rw [arrives]
  split
  case h_1 script => exact deliverD2H_of_lost (by simp [sendByte, txDone, script, chanFate])
  case h_2 script => exact deliverD2H_of_given (by simp [sendByte, txDone, script, chanFate])
  case h_3 script =>
    split
    case h_1 free => exact deliverD2H_of_lost (by simpa [sendByte, txDone, script, chanFate] using free)
    case h_2 free => exact deliverD2H_of_given (by simpa [sendByte, txDone, script, chanFate] using free)

/-- Settles O32: as O31 for the flight that `hostWriteByte` starts; the reset of the device marks the flight as lost. -/
theorem hostFlightTakesOneByteTime : Obligations.HostFlightTakesOneByteTime := by
  intro b s n positive
  have whole : max 1 (hostWriteByte b s).host.htxRemain = s.cfg.byteTimeUs := max_eq_right positive
  refine ⟨fun inFlight => hostTransmit_iterate (s := hostWriteByte b s) rfl n (whole ▸ inFlight), ?written, ?cut⟩
  case written =>
    have arrives := hostTransmit_iterate_flight (s := hostWriteByte b s) rfl
    have kept : (hostWriteByte b s).line.h2dLost = false := rfl
    rw [whole, if_neg (Bool.eq_false_iff.1 kept)] at arrives
    intro landed
    rw [arrives]
    split
    case h_1 script => exact deliverH2D_of_lost (by simp [hostWriteByte, htxDone, script, chanFate])
    case h_2 script => exact deliverH2D_of_given (by simp [hostWriteByte, htxDone, script, chanFate])
    case h_3 script =>
      split
      case h_1 free => exact deliverH2D_of_lost (by simpa [hostWriteByte, htxDone, script, chanFate] using free)
      case h_2 free => exact deliverH2D_of_given (by simpa [hostWriteByte, htxDone, script, chanFate] using free)
  case cut =>
    intro busy
    have marked : (deviceReset s).line.h2dLost = true := by simp [busy]
    refine ⟨hostTransmit_iterate (s := deviceReset s) busy, ?_⟩
    have ends := hostTransmit_iterate_flight (s := deviceReset s) busy
    rwa [if_pos marked] at ends

end Sys2Proof.Machine

/-! What a request's cycle leaves at its end: the moisture sample, the response line with its length, and the zone with
its relays (spec/44_device_protocol.md R180 to R199); and that no move but a reset switches the relays off. -/

namespace Sys2Proof.Machine

/-! ### The length of the response line (30 R87, R88; 44 R190) -/

theorem length_responseLine (t : Int) (m : Nat) (z : Byte) :
    (responseLine t m z).length = 38 + (decInt t).length + (decNat m).length := by
  simp only [responseLine, textTemp, textMoisture, textZone, List.length_append, List.length_cons, List.length_nil]
  omega

/-- Settles O10: the numerals' bounds, added to the 38 bytes of text, zone and newline. -/
theorem responseLineLength : Obligations.ResponseLineLength := by
  intro t m z lo hi
  have length := length_responseLine t m.toNat z
  have temp := one_le_length_decInt t
  have temp' : (decInt t).length ≤ 3 + 1 := length_decInt_le (by omega) (by omega)
  have moist := one_le_length_decNat m.toNat
  have moist' : (decNat m.toNat).length ≤ 3 := length_decNat_le (by omega) (by omega)
  have size : Config.txMsgSize = 45 := rfl
  refine ⟨length, temp, temp', moist, moist', ?_, ?_, size⟩ <;> omega

/-! ### No move but a reset switches the relays off (44 R199, 70 R261) -/

/-- With no reset to come none comes: no move adds to the script. -/
theorem keptByMoves_noReset : KeptByMoves fun u => noReset u = true where
  elapse _ h := h
  deviceTransmit _ h := by simpa only [noReset, deviceTransmit_resets] using h
  hostTransmit _ h := by simpa only [noReset, hostTransmit_resets] using h
  deviceMove u h := by simpa only [noReset, (deviceMove_deviceOnly u).resets] using h
  hostRun u h := by simpa only [noReset, (hostRun_hostOnly u).resets] using h
  takeReset _ h := by rwa [takeReset_of_noReset h]
  openKey _ h := by simpa [noReset] using h
  beginCycle _ _ _ h := h

/-- No reset is to come, zone, mask and actuator agree, and a relay is energised. -/
structure RelayHeld (s : State) : Prop where
  noReset : noReset s = true
  followed : ZonesFollowed s
  on : s.zact.zout ≠ 0

/-- The relays change only to the mask that `write_zone` runs with, which is never the empty one. -/
theorem zout_ne_zero_deviceMove {s : State} (h : ZonesFollowed s) (on : s.zact.zout ≠ 0) :
    (deviceMove s).zact.zout ≠ 0 := by
  obtain ⟨-, follows⟩ : ZonesFollowed (deviceMove s) := keptByMoves_zonesFollowed.deviceMove s h
  obtain ⟨same, -⟩ | ⟨hs, -, rise⟩ := relaysKept_or_latchRise s
  · rwa [same]
  · have actuates : (deviceMove s).dev.state = .decodeActuate := by simp [rise, hs]
    have latch : (deviceMove s).dev.pos = .latch := by simp [rise]
    obtain ⟨-, relays⟩ := follows.rest (by simp [Shifting, latch])
    rw [relays]
    exact follows.mask ⟨actuates, .inr (.inr latch)⟩

/-- Only the device's moves and a reset touch the actuator. -/
theorem keptByMoves_relayHeld : KeptByMoves RelayHeld := by
  have quiet := keptByMoves_noReset
  have zones := keptByMoves_zonesFollowed
  exact {
    elapse := fun u h => ⟨quiet.elapse u h.noReset, zones.elapse u h.followed, h.on⟩
    deviceTransmit := fun u h =>
      ⟨quiet.deviceTransmit u h.noReset, zones.deviceTransmit u h.followed, by simpa using h.on⟩
    hostTransmit := fun u h => ⟨quiet.hostTransmit u h.noReset, zones.hostTransmit u h.followed, by simpa using h.on⟩
    deviceMove := fun u h =>
      ⟨quiet.deviceMove u h.noReset, zones.deviceMove u h.followed, zout_ne_zero_deviceMove h.followed h.on⟩
    hostRun := fun u h => ⟨quiet.hostRun u h.noReset, zones.hostRun u h.followed, by simpa using h.on⟩
    takeReset := fun u h => by rwa [takeReset_of_noReset h.noReset]
    openKey := fun u h => ⟨quiet.openKey u h.noReset, zones.openKey u h.followed, by simpa using h.on⟩
    beginCycle := fun b u await h => ⟨h.noReset, zones.beginCycle b u await h.followed, h.on⟩ }

/-- Settles O48, with the two invariants carried along. -/
theorem onlyAResetSwitchesTheRelaysOff : Obligations.OnlyAResetSwitchesTheRelaysOff := by
  intro s t agree follows noRst on hst
  exact (keptByMoves_relayHeld.step ⟨noRst, ⟨agree, (actuatorFollows_iff s).1 follows⟩, on⟩ hst).on

/-! ### What a cycle's registers do between the moves of its program -/

/-- From `u` to `v` time may pass, but the registers that a cycle computes with stand still. -/
structure OnlyTime (u v : State) : Prop where
  now : u.now ≤ v.now
  dec : v.dec = u.dec
  dev : v.dev = { u.dev with yielded := v.dev.yielded }
  zact : v.zact = u.zact
  txd : v.duart.txd = u.duart.txd
  moisture : v.env.moisture = u.env.moisture

theorem SameDevice.onlyTime {u v : State} (h : SameDevice v u) : OnlyTime u v :=
  ⟨h.now.ge, h.dec, by rw [h.dev], h.zact, h.txd, h.moisture⟩

theorem onlyTime_tick (u : State) : OnlyTime u (deviceTransmit (elapse u)) where
  now := by simp
  dec := by simp
  dev := by simp
  zact := by simp
  txd := by rw [deviceTransmit_eq]; rfl
  moisture := by rw [deviceTransmit_eq]; rfl

/-- A property that holds at the fetch, that passing time keeps and every move of the device, holds at the cycle's
end. -/
theorem deviceCycle_keeps {P : State → Prop} (time : ∀ {u v : State}, OnlyTime u v → P u → P v)
    (move : ∀ u, P u → P (deviceMove u)) {b : Byte} {s : State} (legal : configLegal s.cfg = true)
    (noRst : noReset s = true) (h : P (beginCycle b s)) : P (deviceCycle b s) :=
  deviceCycle_induct (P := P) (fun same => time same.onlyTime) move (fun u _ _ => time (onlyTime_tick u)) legal noRst h

/-! ### The moisture sample (44 R184) -/

/-- `u` holds the answer that the moisture input gave since `s`: the next scripted one, which is used up, or the free
one of a tick since then (10 R47; log 2). -/
def MoistureTaken (s u : State) : Prop :=
  (∃ m later, s.env.moisture = m :: later ∧ u.dev.moist = m ∧ u.env.moisture = later)
  ∨ (s.env.moisture = [] ∧ u.env.moisture = []
    ∧ ∃ n, s.now ≤ n ∧ n ≤ u.now ∧ u.dev.moist = Config.envMoisture n)

/-- The cycle that began at `s` has taken its moisture sample once its read is over, and not before. -/
structure Sampling (s u : State) : Prop where
  now : s.now ≤ u.now
  before : InRead u.dev → u.env.moisture = s.env.moisture
  after : ¬ InRead u.dev → MoistureTaken s u

section Sampling

variable {s u v : State}

theorem MoistureTaken.congr (h : MoistureTaken s u) (now : u.now ≤ v.now) (moist : v.dev.moist = u.dev.moist)
    (script : v.env.moisture = u.env.moisture) : MoistureTaken s v := by
  obtain ⟨m, later, scripted, taken, used⟩ | ⟨free, used, n, since, till, taken⟩ := h
  · exact .inl ⟨m, later, scripted, moist.trans taken, script.trans used⟩
  · exact .inr ⟨free, script.trans used, n, since, till.trans now, moist.trans taken⟩

theorem sampling_time (time : OnlyTime u v) (h : Sampling s u) : Sampling s v where
  now := h.now.trans time.now
  before reads := by
    rw [time.dev] at reads
    exact time.moisture.trans (h.before reads)
  after out := by
    rw [time.dev] at out
    exact (h.after out).congr time.now (by rw [time.dev]) time.moisture

/-- The sample is the answer at this very tick. -/
theorem moistureTaken_takeResult (now : s.now ≤ u.now) (script : u.env.moisture = s.env.moisture) :
    MoistureTaken s (takeResult u) := by
  obtain ⟨free, e⟩ | ⟨m, later, scripted, e⟩ := sampleMoisture_cases { u with dec.state := .idle }
  · exact .inr ⟨script.symm.trans free, by simpa [takeResult, e] using free, u.now, now,
      (takeResult_deviceOnly u).now.ge, by simp [takeResult, e]⟩
  · exact .inl ⟨m, later, script.symm.trans scripted, by simp [takeResult, e], by simp [takeResult, e]⟩

theorem decoderMove_moisture (u : State) : (decoderMove u).env.moisture = u.env.moisture := by
  have only := decoderMove_decoderOnly u
  rw [DecoderOnly] at only
  rw [only]

/-- Outside `read_sensor` no move asks the moisture input. -/
theorem deviceMove_moisture_outside (out : ¬ InRead u.dev) :
    (deviceMove u).dev.moist = u.dev.moist ∧ (deviceMove u).env.moisture = u.env.moisture := by
  refine deviceMove_keeps (P := fun v => v.dev.moist = u.dev.moist ∧ v.env.moisture = u.env.moisture)
    (fun _ _ h => h) ?send (fun hs hp _ => absurd ⟨hs, hp⟩ out) (fun hs hp _ => absurd ⟨hs, hp⟩ out)
    ?zone ?fall ?bit ?latch ⟨rfl, rfl⟩
  case send => intro _; obtain ⟨-, -, e⟩ | ⟨-, -, e⟩ | ⟨-, e⟩ := sendMove_cases u <;> rw [e] <;> exact ⟨rfl, rfl⟩
  case zone =>
    intro _ _
    obtain ⟨-, e⟩ | ⟨-, e⟩ := zoneUpdate_cases u <;> rw [e]
    · simp [presentBit]
    · exact ⟨rfl, rfl⟩
  case fall => intro _ _; simp [clockFall]
  case bit =>
    intro _ _
    obtain ⟨-, e⟩ | ⟨i, -, e⟩ := nextZoneBit_cases u <;> rw [e]
    · simp [latchRise]
    · simp [presentBit]
  case latch => intro _ _; simp [latchFall, convertAndRespond]

theorem sampling_deviceMove (h : Sampling s u) : Sampling s (deviceMove u) := by
  have now : (deviceMove u).now = u.now := (deviceMove_deviceOnly u).now
  by_cases reads : InRead u.dev
  · obtain ⟨-, e⟩ | ⟨-, -, e⟩ | ⟨-, -, e⟩ := deviceMove_inRead reads <;> rw [e] at now ⊢
    · exact h
    · have left : ¬ InRead (takeResult u).dev := by rw [takeResult_dev]; simp [InRead]
      exact ⟨now ▸ h.now, fun reads' => absurd reads' left, fun _ => moistureTaken_takeResult h.now (h.before reads)⟩
    · have still : InRead (decoderMove u).dev := by rw [decoderMove_dev]; exact reads
      exact ⟨now ▸ h.now, fun _ => (decoderMove_moisture u).trans (h.before reads), fun out => absurd still out⟩
  · obtain ⟨-, out⟩ := deviceMove_outside reads
    obtain ⟨moist, script⟩ := deviceMove_moisture_outside reads
    exact ⟨now ▸ h.now, fun reads' => absurd reads' out, fun _ => (h.after reads).congr now.ge moist script⟩

theorem moistureTaken_deviceCycle (b : Byte) (legal : configLegal s.cfg = true) (noRst : noReset s = true) :
    MoistureTaken s (deviceCycle b s) := by
  have sampling : Sampling s (deviceCycle b s) :=
    deviceCycle_keeps sampling_time (fun _ => sampling_deviceMove) legal noRst
      ⟨le_refl _, fun _ => rfl, fun out => absurd ⟨rfl, rfl⟩ out⟩
  exact sampling.after (by simp [InRead, deviceCycle_awaits b legal noRst])

end Sampling

/-! ### The response (44 R186, R188, R189) -/

/-- The ten bits of `TEMP_F` hold the conversion of every value of `TEMP_TENTHS`. -/
theorem toInt_cToF_toInt (t : BitVec 12) : (BitVec.ofInt 10 (cToF t.toInt)).toInt = cToF t.toInt := by
  have lo := BitVec.le_toInt t
  have hi := BitVec.toInt_lt (x := t)
  obtain ⟨near, -⟩ := cToF_nearest t.toInt
  norm_num at lo hi
  rw [BitVec.toInt_ofInt]
  exact Int.bmod_eq_of_le (by omega) (by omega)

/-- The response line of the controller's registers. -/
def lineOf (v : Device) : List Byte := responseLine v.tempF.toInt v.moist.toNat v.curZone

/-- The line of the held readings stands in `TXMSG` over the bytes `old`, and the bytes before `TXIDX` have been handed
over, the last of them being in `TXD`. -/
def LineHeld (old : List Byte) (d : Decoder) (v : Device) (txd : Byte) : Prop :=
  v.tempF.toInt = cToF d.tempTenths.toInt ∧ v.txMsg = writePrefix (lineOf v) old ∧ v.txLen = (lineOf v).length
    ∧ v.txIdx ≤ v.txLen ∧ ∀ k, v.txIdx = k + 1 → v.txMsg[k]? = some txd

/-- Where a cycle's response stands: `TXMSG` is as before until `DecodeActuate` is over, then the line is held, and at
the end of `Respond` it has been handed over. -/
def Responding (old : List Byte) (u : State) : Prop :=
  match u.dev.state with
  | .decodeActuate => u.dev.txMsg = old
  | .respond => LineHeld old u.dec u.dev u.duart.txd
  | .awaitRequest => LineHeld old u.dec u.dev u.duart.txd ∧ u.dev.txIdx = u.dev.txLen

section Responding

variable {old : List Byte} {u v : State}

theorem responding_time (time : OnlyTime u v) (h : Responding old u) : Responding old v := by
  rw [Responding, time.dec, time.dev, time.txd]
  exact h

theorem responding_of_actuate (hs : v.dev.state = .decodeActuate) (msg : v.dev.txMsg = old) : Responding old v := by
  simpa only [Responding, hs] using msg

theorem responding_of_respond (hs : v.dev.state = .respond) (held : LineHeld old v.dec v.dev v.duart.txd) :
    Responding old v := by
  simpa only [Responding, hs] using held

theorem txMsg_of_actuate (h : Responding old u) (hs : u.dev.state = .decodeActuate) : u.dev.txMsg = old := by
  simpa only [Responding, hs] using h

theorem responding_convertAndRespond (msg : u.dev.txMsg = old) : Responding old (convertAndRespond u) := by
  show LineHeld old (convertAndRespond u).dec (convertAndRespond u).dev (convertAndRespond u).duart.txd
  have none : ∀ k, 0 ≠ k + 1 := Nat.zero_ne_add_one
  exact ⟨toInt_cToF_toInt _, by rw [← msg]; rfl, rfl, Nat.zero_le _, fun k first => absurd first (none k)⟩

/-- Each byte of the line that is to come is in the buffer. -/
theorem LineHeld.getElem? {d : Decoder} {w : Device} {b : Byte} (h : LineHeld old d w b) (more : w.txIdx < w.txLen) :
    w.txMsg[w.txIdx]? = some ((w.txMsg[w.txIdx]?).getD 0) := by
  obtain ⟨-, msg, len, -, -⟩ := h
  have fits : w.txIdx < w.txMsg.length := by
    rw [msg, writePrefix, List.length_append]
    omega
  simp [List.getElem?_eq_getElem fits]

theorem responding_sendMove (hs : u.dev.state = .respond) (h : Responding old u) : Responding old (sendMove u) := by
  have held : LineHeld old u.dec u.dev u.duart.txd := by simpa only [Responding, hs] using h
  obtain ⟨tempF, msg, len, idx, sent⟩ := id held
  obtain ⟨more, -, e⟩ | ⟨-, -, e⟩ | ⟨last, e⟩ := sendMove_cases u <;> rw [e]
  · have next : LineHeld old u.dec { u.dev with txIdx := u.dev.txIdx + 1 } ((u.dev.txMsg[u.dev.txIdx]?).getD 0) := by
      refine ⟨tempF, msg, len, more, fun k hk => ?_⟩
      obtain rfl : u.dev.txIdx = k := Nat.succ.inj hk
      exact held.getElem? more
    exact responding_of_respond hs next
  · exact responding_of_respond hs held
  · exact ⟨held, Nat.le_antisymm idx last⟩

theorem responding_deviceMove (h : Responding old u) : Responding old (deviceMove u) := by
  refine deviceMove_keeps (P := Responding old) (fun _ _ hu => hu) (fun hs => responding_sendMove hs h) ?result ?decode
    ?zone ?fall ?bit ?latch h
  case result =>
    intro hs _ _
    exact responding_of_actuate (by rw [takeResult_dev]; exact hs) (by rw [takeResult_dev]; exact txMsg_of_actuate h hs)
  case decode =>
    intro hs _ _
    exact responding_of_actuate (by rw [decoderMove_dev]; exact hs)
      (by rw [decoderMove_dev]; exact txMsg_of_actuate h hs)
  case zone =>
    intro hs _
    obtain ⟨-, e⟩ | ⟨-, e⟩ := zoneUpdate_cases u <;> rw [e]
    · exact responding_of_actuate (by simpa using hs) (by simpa using txMsg_of_actuate h hs)
    · exact responding_convertAndRespond (txMsg_of_actuate h hs)
  case fall => intro hs _; exact responding_of_actuate (by simpa using hs) (by simpa using txMsg_of_actuate h hs)
  case bit =>
    intro hs _
    exact responding_of_actuate (by rw [nextZoneBit_dev]; exact hs)
      (by rw [nextZoneBit_dev]; exact txMsg_of_actuate h hs)
  case latch =>
    intro hs _
    exact responding_convertAndRespond (u := setZlatch false u) (txMsg_of_actuate h hs)

end Responding

theorem deviceMove_req (u : State) : (deviceMove u).dev.req = u.dev.req := by
  refine deviceMove_keeps (P := fun v => v.dev.req = u.dev.req) (fun _ _ h => h) ?send
    (fun _ _ _ => by rw [takeResult_dev]) (fun _ _ _ => by rw [decoderMove_dev]) ?zone (fun _ _ => by simp) (fun _ _ => by rw [nextZoneBit_dev])
    (fun _ _ => by rw [latchFall_dev]; rfl) rfl
  case send => intro _; obtain ⟨-, -, e⟩ | ⟨-, -, e⟩ | ⟨-, e⟩ := sendMove_cases u <;> rw [e] <;> rfl
  case zone => intro _ _; obtain ⟨-, e⟩ | ⟨-, e⟩ := zoneUpdate_cases u <;> rw [e] <;> simp [convertAndRespond]

/-- The newline is the line's last byte (30 R87). -/
theorem getLast?_responseLine (t : Int) (m : Nat) (z : Byte) : (responseLine t m z).getLast? = some 0x0A := by
  obtain ⟨line, e, -⟩ := responseLine_printable t m z
  rw [e, List.getLast?_concat]

/-- What every cycle of byte `b` from `s` leaves, whatever its byte: the device awaits the next request, the moisture is
sampled, and the response line of its registers has been handed to the transmitter (44 R180 to R190). -/
structure Reported (b : Byte) (s t : State) : Prop where
  await : t.dev.state = .awaitRequest
  req : t.dev.req = b
  moist : MoistureTaken s t
  tempF : t.dev.tempF.toInt = cToF t.dec.tempTenths.toInt
  idx : t.dev.txIdx = t.dev.txLen
  line : t.dev.txMsg.take t.dev.txLen = lineOf t.dev
  beyond : t.dev.txMsg.drop t.dev.txLen = s.dev.txMsg.drop t.dev.txLen
  newline : t.duart.txd = 0x0A
  idle : t.dec.state = .idle
  released : t.dec.swDrive = false

/-- The last byte handed over is the last of the line. -/
theorem LineHeld.txd_eq {old : List Byte} {d : Decoder} {v : Device} {txd : Byte} (h : LineHeld old d v txd)
    (whole : v.txIdx = v.txLen) : txd = 0x0A := by
  obtain ⟨-, msg, len, -, sent⟩ := h
  have least : 40 ≤ (lineOf v).length := forty_le_length_responseLine _ _ _
  have last := sent ((lineOf v).length - 1) (by omega)
  rw [msg, writePrefix, List.getElem?_append_left (by omega), ← List.getLast?_eq_getElem?, lineOf,
    getLast?_responseLine] at last
  exact (Option.some.inj last).symm

theorem reported_deviceCycle (b : Byte) {s : State} (legal : configLegal s.cfg = true) (noRst : noReset s = true) :
    Reported b s (deviceCycle b s) := by
  have await := deviceCycle_awaits b legal noRst
  have responding : Responding s.dev.txMsg (deviceCycle b s) :=
    deviceCycle_keeps responding_time (fun _ => responding_deviceMove) legal noRst (responding_of_actuate rfl rfl)
  obtain ⟨held, whole⟩ : LineHeld s.dev.txMsg _ _ _ ∧ _ := by simpa only [Responding, await] using responding
  have newline := held.txd_eq whole
  obtain ⟨tempF, msg, len, -, -⟩ := held
  have place := (inTime_deviceCycle b legal noRst).place
  have idle : (deviceCycle b s).dec.state = .idle := by
    by_contra busy
    obtain ⟨-, reads, -⟩ := (decoderInPlace_iff _).1 place
    obtain ⟨actuates, -⟩ := reads busy
    simp [await] at actuates
  exact {
    await := await
    req := deviceCycle_keeps (P := fun u => u.dev.req = b) (fun time h => by rw [time.dev]; exact h)
      (fun u h => (deviceMove_req u).trans h) legal noRst rfl
    moist := moistureTaken_deviceCycle b legal noRst
    tempF := tempF
    idx := whole
    line := by rw [msg, len, writePrefix, List.take_left]
    beyond := by rw [msg, len, writePrefix, List.drop_left]
    newline := newline
    idle := idle
    released := swDrive_of_inPlace place (by simp [idle]) }

/-! ### A byte that is no zone digit (44 R187, R199) -/

/-- Zone, mask and actuator are those of `s`, in a cycle that never enters `write_zone`. -/
structure ZoneKept (b : Byte) (s u : State) : Prop where
  req : u.dev.req = b
  zone : u.dev.curZone = s.dev.curZone
  mask : u.dev.zmask = s.dev.zmask
  actuator : u.zact = s.zact
  outside : ¬ Writing u.dev

section ZoneKept

variable {b : Byte} {s u v : State}

theorem ZoneKept.congr (h : ZoneKept b s u)
    (dev : v.dev.req = u.dev.req ∧ v.dev.curZone = u.dev.curZone ∧ v.dev.zmask = u.dev.zmask)
    (zact : v.zact = u.zact) (outside : ¬ Writing v.dev) : ZoneKept b s v := by
  obtain ⟨req, zone, mask⟩ := dev
  exact ⟨req.trans h.req, zone.trans h.zone, mask.trans h.mask, zact.trans h.actuator, outside⟩

theorem zoneKept_time (time : OnlyTime u v) (h : ZoneKept b s u) : ZoneKept b s v :=
  h.congr (by rw [time.dev]; exact ⟨rfl, rfl, rfl⟩) time.zact (by rw [time.dev]; exact h.outside)

/-- The zone update skips the actuator, and the positions behind it are out of reach. -/
theorem zoneKept_deviceMove (other : isZoneDigit b = false) (h : ZoneKept b s u) : ZoneKept b s (deviceMove u) := by
  refine deviceMove_keeps (P := ZoneKept b s) (fun _ _ hu => hu.congr ⟨rfl, rfl, rfl⟩ rfl hu.outside) ?send ?result
    ?decode ?zone (fun hs hp => absurd ⟨hs, .inl hp⟩ h.outside) (fun hs hp => absurd ⟨hs, .inr (.inl hp)⟩ h.outside)
    (fun hs hp => absurd ⟨hs, .inr (.inr hp)⟩ h.outside) h
  case send =>
    intro hs
    obtain ⟨-, -, e⟩ | ⟨-, -, e⟩ | ⟨-, e⟩ := sendMove_cases u <;> rw [e]
    · exact h.congr ⟨rfl, rfl, rfl⟩ rfl (by simp [Writing, sendByte, hs])
    · exact h.congr ⟨rfl, rfl, rfl⟩ rfl (by simp [Writing, hs])
    · exact h.congr ⟨rfl, rfl, rfl⟩ rfl (by simp [Writing])
  case result =>
    intro _ _ _
    exact h.congr (by rw [takeResult_dev]; simp) (by simp) (by rw [takeResult_dev]; simp [Writing])
  case decode =>
    intro _ hp _
    exact h.congr (by rw [decoderMove_dev]; simp) (decoderMove_zact u) (by rw [decoderMove_dev]; simp [Writing, hp])
  case zone =>
    intro _ _
    obtain ⟨digit, -⟩ | ⟨-, e⟩ := zoneUpdate_cases u
    · simp [h.req, other] at digit
    · rw [e]
      exact h.congr ⟨rfl, rfl, rfl⟩ rfl (by simp [Writing, convertAndRespond])

theorem zoneKept_deviceCycle (other : isZoneDigit b = false) (legal : configLegal s.cfg = true)
    (noRst : noReset s = true) : ZoneKept b s (deviceCycle b s) :=
  deviceCycle_keeps zoneKept_time (fun _ => zoneKept_deviceMove other) legal noRst
    ⟨rfl, rfl, rfl, rfl, by simp [Writing]⟩

end ZoneKept

/-! ### A zone digit (42 R150; 44 R185, R191 to R198) -/

/-- The digit `b` is remembered and its mask made. -/
def ZoneHeld (b : Byte) (v : Device) : Prop := v.curZone = b ∧ v.zmask = zoneMask (zoneNumber b)

/-- The mask of the zone is in `ZSR` and at the relays, the clock at rest. -/
def MaskLatched (b : Byte) (a : Actuator) : Prop :=
  a.zsr = zoneMask (zoneNumber b) ∧ a.zout = zoneMask (zoneNumber b) ∧ a.zclk = false

/-- Where the switch to the zone of digit `b` stands, from the actuator `e` on: not begun, so many bits of the mask
clocked in, or latched (42 R150). -/
def Switching (e : Actuator) (b : Byte) (a : Actuator) (v : Device) : Prop :=
  match v.state with
  | .decodeActuate =>
    match v.pos with
    | .read | .adc => a = e
    | .clkHigh => ZoneHeld b v ∧ v.zIdx < 8 ∧ ClockedTo (zoneMask (zoneNumber b)) e v.zIdx { a with zclk := false }
    | .clkLow => ZoneHeld b v ∧ v.zIdx < 8 ∧ ClockedTo (zoneMask (zoneNumber b)) e v.zIdx a
    | .latch => ZoneHeld b v ∧ MaskLatched b a
  | .respond | .awaitRequest => ZoneHeld b v ∧ MaskLatched b a ∧ a.zlatch = false

section Switching

variable {e : Actuator} {b : Byte} {u v : State}

theorem switching_time (time : OnlyTime u v) (h : Switching e b u.zact u.dev) : Switching e b v.zact v.dev := by
  rw [time.zact, time.dev]
  exact h

theorem switching_of_respond {a : Actuator} {w : Device} (hs : w.state = .respond) (held : ZoneHeld b w)
    (latched : MaskLatched b a ∧ a.zlatch = false) : Switching e b a w := by
  simp only [Switching, hs]
  exact ⟨held, latched⟩

/-- Bit `i` presented with a rising clock is clocked in when the clock falls again. -/
theorem switching_presentBit {i : Nat} (hs : u.dev.state = .decodeActuate) (held : ZoneHeld b u.dev) (hi : i < 8)
    (sent : ClockedTo (zoneMask (zoneNumber b)) e (i + 1) u.zact) :
    Switching e b (presentBit i u).zact (presentBit i u).dev := by
  obtain ⟨-, mask⟩ := id held
  have fallen : (clockBit u.dev.zmask u i).zact = { (presentBit i u).zact with zclk := false } := rfl
  have next := clockedTo_clockBit hi sent
  rw [← mask, fallen, mask] at next
  simpa only [Switching, presentBit_dev, hs] using ⟨held, hi, next⟩

theorem switching_zoneUpdate (digit : isZoneDigit b = true) (clock : e.zclk = false)
    (hs : u.dev.state = .decodeActuate) (hp : u.dev.pos = .adc) (req : u.dev.req = b)
    (h : Switching e b u.zact u.dev) : Switching e b (zoneUpdate u).zact (zoneUpdate u).dev := by
  have same : u.zact = e := by simpa only [Switching, hs, hp] using h
  obtain ⟨-, eq⟩ | ⟨other, -⟩ := zoneUpdate_cases u
  · rw [eq]
    refine switching_presentBit hs ⟨req, by simp [req]⟩ (by omega) ?_
    show ClockedTo _ e 8 u.zact
    rw [same]
    exact clockedTo_eight clock
  · simp [req, digit] at other

theorem switching_nextZoneBit (latch : e.zlatch = false) (hs : u.dev.state = .decodeActuate)
    (hp : u.dev.pos = .clkLow) (h : Switching e b u.zact u.dev) :
    Switching e b (nextZoneBit u).zact (nextZoneBit u).dev := by
  obtain ⟨held, index, sent⟩ : ZoneHeld b u.dev ∧ u.dev.zIdx < 8 ∧ ClockedTo _ e u.dev.zIdx u.zact := by
    simpa only [Switching, hs, hp] using h
  obtain ⟨last, eq⟩ | ⟨i, hi, eq⟩ := nextZoneBit_cases u <;> rw [eq]
  · rw [last] at sent
    rw [latchRise_zact (sent.latch.trans latch)]
    simpa only [Switching, latchRise_dev, hs] using ⟨held, sent.zsr_eq, sent.zsr_eq, sent.clock⟩
  · rw [hi] at sent index
    exact switching_presentBit hs held (by omega) sent

/-- The digit's cycle moves through the phases of `Switching` in their order. -/
theorem switching_deviceMove (digit : isZoneDigit b = true) (clock : e.zclk = false) (latch : e.zlatch = false)
    (req : u.dev.req = b) (h : Switching e b u.zact u.dev) :
    Switching e b (deviceMove u).zact (deviceMove u).dev := by
  refine deviceMove_keeps (P := fun w => Switching e b w.zact w.dev) (fun _ _ hw => hw) ?send ?result ?decode
    (fun hs hp => switching_zoneUpdate digit clock hs hp req h) ?fall (fun hs hp => switching_nextZoneBit latch hs hp h)
    ?latched h
  case send =>
    intro hs
    obtain ⟨held, latched⟩ : ZoneHeld b u.dev ∧ MaskLatched b u.zact ∧ u.zact.zlatch = false := by
      simpa only [Switching, hs] using h
    rw [sendMove_zact]
    obtain ⟨-, -, eq⟩ | ⟨-, -, eq⟩ | ⟨-, eq⟩ := sendMove_cases u <;> rw [eq]
    · exact switching_of_respond hs held latched
    · exact switching_of_respond hs held latched
    · exact ⟨held, latched⟩
  case result =>
    intro hs hp _
    have same : u.zact = e := by simpa only [Switching, hs, hp] using h
    rw [takeResult_zact, takeResult_dev]
    simpa only [Switching, hs] using same
  case decode =>
    intro _ _ _
    rw [decoderMove_zact, decoderMove_dev]
    exact h
  case fall =>
    intro hs hp
    have clocked : ZoneHeld b u.dev ∧ u.dev.zIdx < 8
        ∧ ClockedTo (zoneMask (zoneNumber b)) e u.dev.zIdx { u.zact with zclk := false } := by
      simpa only [Switching, hs, hp] using h
    rw [clockFall_zact, clockFall_dev]
    simp only [Switching, hs]
    exact clocked
  case latched =>
    intro hs hp
    obtain ⟨held, latched⟩ : ZoneHeld b u.dev ∧ MaskLatched b u.zact := by simpa only [Switching, hs, hp] using h
    rw [latchFall_zact, latchFall_dev]
    exact ⟨held, latched, rfl⟩

theorem switching_deviceCycle {s : State} (digit : isZoneDigit b = true) (idle : wiresIdle s = true)
    (legal : configLegal s.cfg = true) (noRst : noReset s = true) :
    ZoneHeld b (deviceCycle b s).dev ∧ MaskLatched b (deviceCycle b s).zact
      ∧ (deviceCycle b s).zact.zlatch = false := by
  obtain ⟨clock, latch⟩ : s.zact.zclk = false ∧ s.zact.zlatch = false := by simpa [wiresIdle] using idle
  obtain ⟨-, ends⟩ : (deviceCycle b s).dev.req = b
      ∧ Switching s.zact b (deviceCycle b s).zact (deviceCycle b s).dev := by
    refine deviceCycle_keeps (P := fun u => u.dev.req = b ∧ Switching s.zact b u.zact u.dev) ?time ?move legal noRst
      ⟨rfl, rfl⟩
    case time =>
      rintro u v time ⟨req, switching⟩
      exact ⟨by rw [time.dev]; exact req, switching_time time switching⟩
    case move =>
      rintro u ⟨req, switching⟩
      exact ⟨(deviceMove_req u).trans req, switching_deviceMove digit clock latch req switching⟩
  simpa only [Switching, deviceCycle_awaits b legal noRst] using ends

end Switching

/-! ### The nine instructions -/

/-- The two forms of the environment's answer, as the statements write them (log 2). -/
theorem MoistureTaken.answer {s t : State} (h : MoistureTaken s t) :
    match s.env.moisture with
    | m :: later => t.dev.moist = m ∧ t.env.moisture = later
    | [] => t.env.moisture = [] ∧ ∃ n, s.now ≤ n ∧ n ≤ t.now ∧ t.dev.moist = Config.envMoisture n := by
  obtain ⟨m, later, scripted, taken⟩ | ⟨free, taken⟩ := h
  · rw [scripted]; exact taken
  · rw [free]; exact taken

/-- Settles O21: each of the eight bytes is a digit with its mask, and the cycle reports and switches. -/
theorem zoneSelectSetsTheZone : Obligations.ZoneSelectSetsTheZone := by
  intro p hp
  obtain ⟨decodes, digit, mask⟩ : p.1 = decodeRequest p.2.1 ∧ isZoneDigit p.2.1 = true
      ∧ p.2.2 = zoneMask (zoneNumber p.2.1) := by revert p; decide
  intro s legal noRst idle
  have r := reported_deviceCycle p.2.1 legal noRst
  obtain ⟨⟨zone, zmask⟩, ⟨zsr, zout, clock⟩, latch⟩ := switching_deviceCycle digit idle legal noRst
  have line := r.line
  rw [lineOf, zone] at line
  rw [← mask] at zmask zsr zout
  refine ⟨deviceCycle p.2.1 s, by rw [decodes, exec_decodeRequest], r.await, r.req, zone, zmask, zsr, zout,
    by simp [wiresIdle, clock, latch], r.moist.answer, r.tempF, r.idx, line, r.beyond, r.newline, r.idle, r.released⟩

/-- Settles O22: the cycle of a byte that is no digit reports and keeps the zone. -/
theorem statusOnlyKeepsTheZone : Obligations.StatusOnlyKeepsTheZone := by
  intro b s other legal noRst
  have r := reported_deviceCycle b legal noRst
  have kept := zoneKept_deviceCycle other legal noRst
  have line := r.line
  rw [lineOf, kept.zone] at line
  exact ⟨deviceCycle b s, rfl, r.await, r.req, kept.zone, kept.mask, kept.actuator, r.moist.answer, r.tempF, r.idx,
    line, r.beyond, r.newline, r.idle, r.released⟩

end Sys2Proof.Machine

/-! The host's transaction (spec/45_host_protocol.md R200 to R213): the commands that start none, what the host's
program does at a tick of each wait, and the read that ends it. -/

namespace Sys2Proof.Machine

/-! ### The commands that start nothing (45 R200, R201, R216) -/

/-- Settles O40: a busy host takes neither command, and the first poll is that of an idle host's command only. -/
theorem noCommandDuringATransaction : Obligations.NoCommandDuringATransaction := by
  intro n s busy
  have status : openStatus s = s := if_neg busy
  have zone : openZone n s = s := if_neg busy
  rw [exec_keyHostStatus, exec_keyHostZone, status, zone, firstPoll, if_neg busy]
  exact ⟨rfl, rfl⟩

theorem openTransaction_of_noPort {s : State} {ports : List Bool} (hp : s.env.port = false :: ports)
    (req : Byte) (disp : Bool) :
    openTransaction req disp s = { s with
      host := { s.host with req := req, disp := disp, result := .portUnavailable, state := .idle }
      env := { s.env with port := ports } } := by
  simp [openTransaction, stepOpen, askPort, hp]

/-- Settles O38: the transaction ends as it is opened, and a host idle again does not poll. -/
theorem noPortEndsTheCommand : Obligations.NoPortEndsTheCommand := by
  intro i req disp s ports hi idle hp
  rw [exec_of_commandStarts hi idle, openTransaction_of_noPort hp, hostRun_of_idle rfl, ← idle]

/-! ### What the host's program does at a tick of each wait -/

/-- A refused poll counts (45 R203). -/
theorem hostRun_of_refused {s : State} {readies : List Bool} (h : s.host.state = .waitWr)
    (ht : s.host.timer < s.cfg.hostDeadlineUs) (hw : s.env.wrOk = false :: readies) :
    hostRun s = { s with
      host := { s.host with timer := s.host.timer + 1 }
      env := { s.env with wrOk := readies } } := by
  have poll : stepWaitWr s = { s with
      host := { s.host with timer := s.host.timer + 1 }, env := { s.env with wrOk := readies } } := by
    simp [stepWaitWr, h, ht, hostWrReady, askWrOk_scripted hw]
  rw [hostRun, stepOpen_other (by simp [h]), poll, stepWrite_other (by simp [h]), stepBlind_other (by simp [h]),
    stepWaitRd_other (by simp [h]), stepRead_other (by simp [h]), stepRelease_other (by simp [h])]

/-- The write deadline aborts (45 R203). -/
theorem hostRun_of_writeDeadline {s : State} (h : s.host.state = .waitWr) (ht : s.cfg.hostDeadlineUs ≤ s.host.timer) :
    hostRun s = abortTransaction .deviceNotResponding s := by
  have poll : stepWaitWr s = abortTransaction .deviceNotResponding s := by simp [stepWaitWr, h, Nat.not_lt.2 ht]
  rw [hostRun, stepOpen_other (by simp [h]), poll, stepWrite_other (by simp), stepBlind_other (by simp),
    stepWaitRd_other (by simp), stepRead_of_idle rfl]

/-- In the read phase the steps before `H_WAIT_RD` do nothing. -/
theorem hostRun_of_waitRd {s : State} (h : s.host.state = .waitRd) :
    hostRun s = stepRelease (stepRead (stepWaitRd s)) := by
  rw [hostRun, stepOpen_other (by simp [h]), stepWaitWr_other (by simp [h]), stepWrite_other (by simp [h]),
    stepBlind_other (by simp [h])]

/-- The end of the blind wait is in no time the first poll of the read phase (45 R206, R207). -/
theorem hostRun_of_blindOver {s : State} (h : s.host.state = .blind) (ht : s.cfg.blindWaitUs ≤ s.host.timer) :
    hostRun s = hostRun { s with host := { s.host with state := .waitRd, timer := 0 } } := by
  have spent : stepBlind s = { s with host := { s.host with state := .waitRd, timer := 0 } } := by
    simp [stepBlind, h, Nat.not_lt.2 ht]
  rw [hostRun_of_waitRd (s := { s with host := { s.host with state := .waitRd, timer := 0 } }) rfl, ← spent, hostRun,
    stepOpen_other (by simp [h]), stepWaitWr_other (by simp [h]), stepWrite_other (by simp [h])]

/-- A poll that finds no byte counts (45 R207). -/
theorem hostRun_of_noByte {s : State} (h : s.host.state = .waitRd) (ht : s.host.timer < s.cfg.hostDeadlineUs)
    (hq : s.host.hrxdQ = []) : hostRun s = { s with host := { s.host with timer := s.host.timer + 1 } } := by
  have poll : stepWaitRd s = { s with host := { s.host with timer := s.host.timer + 1 } } := by
    simp [stepWaitRd, h, ht, hostRdReady, hq]
  rw [hostRun_of_waitRd h, poll, stepRead_other (by simp [h]), stepRelease_other (by simp [h])]

/-- The read deadline aborts (45 R207). -/
theorem hostRun_of_readDeadline {s : State} (h : s.host.state = .waitRd) (ht : s.cfg.hostDeadlineUs ≤ s.host.timer) :
    hostRun s = abortTransaction .noIncomingData s := by
  have poll : stepWaitRd s = abortTransaction .noIncomingData s := by simp [stepWaitRd, h, Nat.not_lt.2 ht]
  rw [hostRun_of_waitRd h, poll, stepRead_of_idle rfl]

/-! ### The read (45 R207 to R213) -/

/-- What the host's program makes of a queue it reads, the clock answering `clk`: the bytes in `HBUF`, the line
released, one record, and the payload on the display if it is wanted. -/
def readAndRecorded (clk : DateTime) (s : State) : State :=
  { s with
    host := { (hostRead s).host with state := .idle, result := .done, lineOpen := false, hrxdQ := [] }
    out := { log := s.out.log ++ [logLine clk (payload (hostRead s))]
             display := if s.host.disp then s.out.display ++ [payload (hostRead s)] else s.out.display }
    env := { s.env with clock := s.env.clock.tail } }

/-- A poll that finds a byte reads, releases the line, records and is done, all at its tick. -/
theorem hostRun_of_byte {s : State} {clk : DateTime} {clks : List DateTime} (h : s.host.state = .waitRd)
    (ht : s.host.timer < s.cfg.hostDeadlineUs) (ho : s.host.lineOpen = true) (hq : 1 ≤ s.host.hrxdQ.length)
    (hc : s.env.clock = clk :: clks) : hostRun s = readAndRecorded clk s := by
  have poll : stepWaitRd s = { s with host := { s.host with state := .read } } := by
    simp [stepWaitRd, h, ht, hostRdReady, ho, hq]
  have asked : ∀ {u : State}, u.env.clock = clk :: clks → (askClock u).1 = clk := fun h => by rw [askClock_scripted h]
  rw [hostRun_of_waitRd h, poll, stepRead_eq rfl, stepRelease_eq rfl, asked]
  exacts [rfl, hc]

@[simp] theorem hostRead_hLen (s : State) : (hostRead s).host.hLen = min s.host.hrxdQ.length s.cfg.rxBufSize := by
  rw [min_comm]
  exact List.length_take

/-- What the read took stands at the start of `HBUF` (43 R169). -/
theorem hostRead_taken (s : State) :
    (hostRead s).host.hBuf.take (hostRead s).host.hLen = s.host.hrxdQ.take s.cfg.rxBufSize :=
  List.take_left

theorem payload_hostRead (s : State) :
    payload (hostRead s) = filterPrintable s.cfg (s.host.hrxdQ.take s.cfg.rxBufSize) :=
  congrArg (filterPrintable s.cfg) (hostRead_taken s)

/-- Settles O43: the end of the blind wait is the first poll of the read phase, so both cases are one such poll. -/
theorem readEndsTheTransaction : Obligations.ReadEndsTheTransaction := by
  intro s clk clks phase ho hq hc text
  have ran : ∃ u : State, hostRun s = readAndRecorded clk u
      ∧ ∃ timer, u = { s with host := { s.host with state := .waitRd, timer := timer } } := by
    obtain ⟨h, ht⟩ | ⟨h, spent, ht⟩ := phase
    · exact ⟨s, hostRun_of_byte h ht ho hq hc, s.host.timer, by rw [← h]⟩
    · exact ⟨_, (hostRun_of_blindOver h spent).trans (hostRun_of_byte rfl ht ho hq hc), 0, rfl⟩
  obtain ⟨u, ran, timer, rfl⟩ := ran
  rw [ran]
  refine ⟨?out, rfl, rfl, rfl, rfl, hostRead_hLen _, hostRead_taken _, ?clock⟩
  case out => simp only [readAndRecorded, payload_hostRead]; rfl
  case clock => simp only [readAndRecorded, hc, List.tail_cons]

end Sys2Proof.Machine

/-! The two deadlines of the host's transaction, to the tick (spec/45_host_protocol.md R203, R206, R207). -/

namespace Sys2Proof.Machine

/-! ### A tick as the host's program finds it -/

/-- The state in which the host's program moves at a tick: all the others have moved. -/
def beforeHost (s : State) : State := deviceRun (beforeDevice s)

theorem tick_eq_beforeHost (s : State) : tick s = hostRun (beforeHost s) := tick_eq s

/-- Of the host only its flight and its queue change before its program moves (43 R168, R171). -/
theorem beforeHost_host (s : State) : (beforeHost s).host = { s.host with
    htxReady := (beforeHost s).host.htxReady, htxRemain := (beforeHost s).host.htxRemain
    hrxdQ := (beforeHost s).host.hrxdQ } := by
  rw [beforeHost, deviceRun_host, beforeDevice, hostTransmit_host, deviceTransmit_host]
  rfl

@[simp] theorem beforeHost_now (s : State) : (beforeHost s).now = s.now + 1 := by simp [beforeHost]
@[simp] theorem beforeHost_cfg (s : State) : (beforeHost s).cfg = s.cfg := by simp [beforeHost]
@[simp] theorem beforeHost_out (s : State) : (beforeHost s).out = s.out := by simp [beforeHost]
@[simp] theorem beforeHost_state (s : State) : (beforeHost s).host.state = s.host.state := by rw [beforeHost_host]
@[simp] theorem beforeHost_timer (s : State) : (beforeHost s).host.timer = s.host.timer := by rw [beforeHost_host]
@[simp] theorem beforeHost_lineOpen (s : State) : (beforeHost s).host.lineOpen = s.host.lineOpen := by
  rw [beforeHost_host]
@[simp] theorem beforeHost_req (s : State) : (beforeHost s).host.req = s.host.req := by rw [beforeHost_host]
@[simp] theorem beforeHost_disp (s : State) : (beforeHost s).host.disp = s.host.disp := by rw [beforeHost_host]
@[simp] theorem beforeHost_htxd (s : State) : (beforeHost s).host.htxd = s.host.htxd := by rw [beforeHost_host]
@[simp] theorem beforeHost_result (s : State) : (beforeHost s).host.result = s.host.result := by rw [beforeHost_host]
@[simp] theorem beforeHost_keys (s : State) : (beforeHost s).env.keys = s.env.keys :=
  (deviceRun_deviceOnly _).keys.trans (beforeDevice_keys s)
@[simp] theorem beforeHost_wrOk (s : State) : (beforeHost s).env.wrOk = s.env.wrOk := by
  rw [beforeHost, (deviceRun_deviceOnly _).wrOk, beforeDevice, hostTransmit_eq, deviceTransmit_eq]
  rfl

/-- A free transmitter stays free: only the host's program writes to it. -/
theorem beforeHost_htxReady {s : State} (free : s.host.htxReady = true) : (beforeHost s).host.htxReady = true := by
  have free' : (deviceTransmit (elapse s)).host.htxReady = true := by rw [deviceTransmit_host]; exact free
  rw [beforeHost, deviceRun_host, beforeDevice, hostTransmit_of_ready free', free']

/-- A device that awaits a request with a free transmitter does nothing at a tick but receive (44 R181). -/
theorem beforeHost_of_silent {s : State} (await : s.dev.state = .awaitRequest) (free : s.duart.txReady = true) :
    beforeHost s = hostTransmit (elapse s) := by
  have sent : deviceTransmit (elapse s) = elapse s := if_pos free
  rw [beforeHost, deviceRun_of_awaiting (by simpa using await), beforeDevice, sent]

/-! ### The polls for write-readiness (45 R203) -/

/-- The state in which the host's program moves for the `n`-th time after `s`. -/
def atPoll (n : Nat) (s : State) : State :=
  match n with
  | 0 => s
  | n + 1 => beforeHost (hostRun (atPoll n s))

theorem ticks_hostRun (n : Nat) (s : State) : ticks n (hostRun s) = hostRun (atPoll n s) := by
  induction n with
  | zero => rfl
  | succ n ih => rw [ticks_succ, ih, tick_eq_beforeHost, atPoll]

/-- Since the command with `req` and `disp` at `s` the port has refused `n` polls, and `answers` are left. -/
structure Polling (s : State) (req : Byte) (disp : Bool) (n : Nat) (answers : List Bool) (u : State) : Prop where
  cfg : u.cfg = s.cfg
  state : u.host.state = .waitWr
  timer : u.host.timer = n
  lineOpen : u.host.lineOpen = true
  req : u.host.req = req
  disp : u.host.disp = disp
  htxd : u.host.htxd = s.host.htxd
  free : s.host.htxReady = true → u.host.htxReady = true
  out : u.out = s.out
  wrOk : u.env.wrOk = answers

/-- A command whose port is granted has opened the line and not polled yet. -/
theorem polling_openTransaction {s : State} {ports : List Bool} (hp : s.env.port = true :: ports) (req : Byte)
    (disp : Bool) : Polling s req disp 0 s.env.wrOk (openTransaction req disp s) := by
  rw [openTransaction_of_port hp]
  exact ⟨rfl, rfl, rfl, rfl, rfl, rfl, rfl, id, rfl, rfl⟩

section Polling

variable {s u : State} {req : Byte} {disp : Bool} {n m : Nat} {answers : List Bool}

theorem Polling.beforeHost (h : Polling s req disp n answers u) : Polling s req disp n answers (beforeHost u) where
  cfg := by simpa using h.cfg
  state := by simpa using h.state
  timer := by simpa using h.timer
  lineOpen := by simpa using h.lineOpen
  req := by simpa using h.req
  disp := by simpa using h.disp
  htxd := by simpa using h.htxd
  free := fun free => beforeHost_htxReady (h.free free)
  out := by simpa using h.out
  wrOk := by simpa using h.wrOk

theorem Polling.refused (h : Polling s req disp n (false :: answers) u) (hn : n < s.cfg.hostDeadlineUs) :
    Polling s req disp (n + 1) answers (hostRun u) := by
  rw [hostRun_of_refused h.state (by rwa [h.timer, h.cfg]) h.wrOk]
  exact { h with timer := congrArg (· + 1) h.timer, wrOk := rfl }

/-- While the port refuses and the deadline has not come, the host polls on. -/
theorem polling_atPoll (h : Polling s req disp 0 (List.replicate (n + m) false ++ answers) u)
    (hm : n + m ≤ s.cfg.hostDeadlineUs) : Polling s req disp n (List.replicate m false ++ answers) (atPoll n u) := by
  induction n generalizing m with
  | zero => simpa [atPoll] using h
  | succ n ih =>
    rw [Nat.succ_add_eq_add_succ] at h hm
    exact ((ih h hm).refused (by omega)).beforeHost

/-- After each poll that is refused the host still waits. -/
theorem polling_ticks (h : Polling s req disp 0 (List.replicate m false ++ answers) u)
    (hm : m ≤ s.cfg.hostDeadlineUs) (hn : n < m) :
    ∃ later, Polling s req disp (n + 1) later (ticks n (hostRun u)) := by
  obtain ⟨k, rfl⟩ := Nat.exists_eq_add_of_lt hn
  rw [ticks_hostRun]
  exact ⟨_, (polling_atPoll (m := k + 1) h hm).refused (by omega)⟩

/-- The poll after `n` refused ones, which finds the answers that follow. -/
theorem polling_nextPoll (h : Polling s req disp 0 (List.replicate n false ++ answers) u)
    (hn : n ≤ s.cfg.hostDeadlineUs) : Polling s req disp n answers (atPoll n u) := polling_atPoll (m := 0) h hn

end Polling

/-- Settles O41: the host waits after each refused poll, up to the one that is the deadline's or finds readiness. -/
theorem writeDeadlineIsExact : Obligations.WriteDeadlineIsExact := by
  refine ⟨?never, ?ready⟩
  case never =>
    intro i req disp s ports hi idle positive hp hw
    have start := polling_openTransaction hp req disp
    rw [hw, ← List.append_nil (List.replicate _ false)] at start
    have waits {n : Nat} (hn : n < s.cfg.hostDeadlineUs) := polling_ticks start le_rfl hn
    have last := polling_nextPoll start le_rfl
    have aborted : ticks s.cfg.hostDeadlineUs (hostRun (openTransaction req disp s))
        = abortTransaction .deviceNotResponding _ :=
      (ticks_hostRun _ _).trans (hostRun_of_writeDeadline last.state (by rw [last.cfg, last.timer]))
    obtain ⟨_, opened⟩ := waits (n := 0) positive
    refine ⟨_, exec_of_commandStarts hi idle, opened.req, opened.disp, fun n hn => ?wait, ?_⟩
    case wait =>
      obtain ⟨_, polling⟩ := waits hn
      exact ⟨polling.state, polling.lineOpen⟩
    rw [aborted]
    exact ⟨rfl, rfl, rfl, last.htxd, last.out⟩
  case ready =>
    intro i req disp s ports later k hi idle free blind hk hp hw
    have start := polling_openTransaction hp req disp
    rw [hw] at start
    have poll := polling_nextPoll start hk.le
    have written := hostRun_of_ready poll.state (by rwa [poll.cfg, poll.timer]) (by rwa [poll.cfg]) poll.lineOpen
      (poll.free free) poll.wrOk
    refine ⟨_, exec_of_commandStarts hi idle, fun n hn => ?wait, ?_⟩
    case wait =>
      obtain ⟨_, polling⟩ := polling_ticks start hk.le hn
      exact ⟨polling.state, polling.free free⟩
    rw [ticks_hostRun, written]
    exact ⟨rfl, rfl, poll.lineOpen, poll.req, rfl, congrArg Config.byteTimeUs poll.cfg, rfl⟩

/-! ### The wait for an answer (45 R206, R207) -/

/-- Since `s` no byte has come: the host has counted `n` ticks of the wait `phase`, and the device is silent. -/
structure NoAnswer (s : State) (phase : HostState) (n : Nat) (u : State) : Prop where
  cfg : u.cfg = s.cfg
  phase : u.host.state = phase
  timer : u.host.timer = n
  queue : u.host.hrxdQ = []
  await : u.dev.state = .awaitRequest
  txReady : u.duart.txReady = true
  zact : u.zact = s.zact
  out : u.out = s.out

section NoAnswer

variable {s u : State} {phase : HostState} {n : Nat}

/-- With the device silent only the request's own flight goes on. -/
theorem NoAnswer.beforeHost (h : NoAnswer s phase n u) : NoAnswer s phase n (beforeHost u) := by
  rw [beforeHost_of_silent h.await h.txReady, hostTransmit_eq]
  exact ⟨h.cfg, h.phase, h.timer, h.queue, h.await, h.txReady, h.zact, h.out⟩

theorem NoAnswer.tick_blind (h : NoAnswer s .blind n u) (hn : n < s.cfg.blindWaitUs) :
    NoAnswer s .blind (n + 1) (tick u) := by
  have b := h.beforeHost
  rw [tick_eq_beforeHost, hostRun_of_blind b.phase (by rwa [b.cfg, b.timer])]
  exact { b with timer := congrArg (· + 1) b.timer }

theorem NoAnswer.hostRun_waitRd (h : NoAnswer s .waitRd n u) (hn : n < s.cfg.hostDeadlineUs) :
    NoAnswer s .waitRd (n + 1) (hostRun u) := by
  rw [hostRun_of_noByte h.phase (by rwa [h.cfg, h.timer]) h.queue]
  exact { h with timer := congrArg (· + 1) h.timer }

/-- The tick at which the blind wait ends is the first of the read phase. -/
theorem NoAnswer.tick_blindOver (h : NoAnswer s .blind s.cfg.blindWaitUs u) (positive : 1 ≤ s.cfg.hostDeadlineUs) :
    NoAnswer s .waitRd 1 (tick u) := by
  have b := h.beforeHost
  rw [tick_eq_beforeHost, hostRun_of_blindOver b.phase (by rw [b.cfg, b.timer])]
  exact NoAnswer.hostRun_waitRd { b with phase := rfl, timer := rfl } positive

theorem NoAnswer.tick_deadline (h : NoAnswer s .waitRd s.cfg.hostDeadlineUs u) :
    tick u = abortTransaction .noIncomingData (Machine.beforeHost u) := by
  have b := h.beforeHost
  rw [tick_eq_beforeHost, hostRun_of_readDeadline b.phase (by rw [b.cfg, b.timer])]

theorem noAnswer_ticks_blind (h : NoAnswer s .blind 1 u) (hn : n < s.cfg.blindWaitUs) :
    NoAnswer s .blind (n + 1) (ticks n u) := by
  induction n with
  | zero => exact h
  | succ n ih => exact ticks_succ n u ▸ (ih (by omega)).tick_blind hn

theorem noAnswer_ticks_waitRd (h : NoAnswer s .blind 1 u) (positive : 1 ≤ s.cfg.blindWaitUs)
    (hn : n < s.cfg.hostDeadlineUs) : NoAnswer s .waitRd (n + 1) (ticks (s.cfg.blindWaitUs + n) u) := by
  induction n with
  | zero =>
    obtain ⟨b, hb⟩ := Nat.exists_eq_add_of_le' positive
    have whole := noAnswer_ticks_blind h (n := b) (by omega)
    rw [← hb] at whole
    rw [Nat.add_zero, hb, ticks_succ]
    exact whole.tick_blindOver hn
  | succ n ih =>
    rw [← Nat.add_assoc, ticks_succ, tick_eq_beforeHost]
    exact (ih (by omega)).beforeHost.hostRun_waitRd hn

/-- The tick of the deadline ends the transaction. -/
theorem noAnswer_ticks_deadline (h : NoAnswer s .blind 1 u) (blind : 1 ≤ s.cfg.blindWaitUs)
    (deadline : 1 ≤ s.cfg.hostDeadlineUs) :
    ∃ v, NoAnswer s .waitRd s.cfg.hostDeadlineUs v
      ∧ ticks (s.cfg.blindWaitUs + s.cfg.hostDeadlineUs) u = abortTransaction .noIncomingData v := by
  obtain ⟨d, hd⟩ := Nat.exists_eq_add_of_le' deadline
  have last := noAnswer_ticks_waitRd h blind (n := d) (by omega)
  rw [← hd] at last
  refine ⟨_, last.beforeHost, ?_⟩
  rw [hd, ← Nat.add_assoc, ticks_succ, last.tick_deadline]

end NoAnswer

/-- Settles O42: the two waits to their ends, and the tick of the deadline. That the request is lost plays no part: over
`ticks` a device takes no new request (log 1), so it is silent in any case. -/
theorem readDeadlineIsExact : Obligations.ReadDeadlineIsExact := by
  intro i req disp s ports readies fates hi idle free deadline blind hp hw _ await _ txReady
  obtain ⟨t, sent, byte, shown, flight, start⟩ : ∃ t, exec i s = .next t
      ∧ t.host.req = req ∧ t.host.disp = disp ∧ t.host.htxd = req ∧ NoAnswer s .blind 1 t :=
    ⟨_, commandStarts_sends hi idle free deadline blind hp hw, rfl, rfl, rfl,
      ⟨rfl, rfl, rfl, rfl, await, txReady, rfl, rfl⟩⟩
  obtain ⟨v, last, aborted⟩ := noAnswer_ticks_deadline start blind deadline
  refine ⟨t, sent, byte, shown, flight, fun n hn => ?busy, ?_⟩
  case busy =>
    obtain early | late := Nat.lt_or_ge n s.cfg.blindWaitUs
    · simp [(noAnswer_ticks_blind start early).phase]
    · obtain ⟨j, rfl⟩ := Nat.exists_eq_add_of_le late
      simp [(noAnswer_ticks_waitRd start blind (n := j) (by omega)).phase]
  rw [aborted]
  exact ⟨rfl, rfl, rfl, last.out, last.zact⟩

end Sys2Proof.Machine

/-! That the host's transaction always ends and its blind wait passes whole, over ticks and over steps
(spec/45_host_protocol.md R203, R206, R207, R217). -/

namespace Sys2Proof.Machine

/-! ### The end of a transaction over ticks (45 R217) -/

theorem timed_of_busy {s : State} (held : hostLineHeld s = true) (busy : s.host.state ≠ .idle) :
    s.host.state = .waitWr ∨ s.host.state = .blind ∨ s.host.state = .waitRd := by
  obtain ⟨idle, -⟩ | ⟨timed, -⟩ := (hostLineHeld_iff s).1 held
  · exact absurd idle busy
  · exact timed

/-- In each timed phase at least one tick is left, and at most all of the waits. -/
theorem hostWaitLeft_bounds {s : State} (held : hostLineHeld s = true) (busy : s.host.state ≠ .idle) :
    1 ≤ hostWaitLeft s ∧ hostWaitLeft s ≤ 2 * s.cfg.hostDeadlineUs + s.cfg.blindWaitUs + 1 := by
  obtain h | h | h := timed_of_busy held busy <;> simp only [hostWaitLeft, h] <;> omega

theorem hostWaitLeft_beforeHost (s : State) : hostWaitLeft (beforeHost s) = hostWaitLeft s := by
  simp [hostWaitLeft]

theorem endsWithin_tick {s : State} (held : hostLineHeld s = true) (busy : s.host.state ≠ .idle) :
    EndsWithin (hostWaitLeft s - 1) (tick s) := by
  rw [tick_eq_beforeHost, ← hostWaitLeft_beforeHost]
  exact hostRun_endsWithin (by simpa using timed_of_busy held busy)

theorem hostEnded_tick {s : State} (ended : hostEnded s) : hostEnded (tick s) := by
  rw [tick_eq_beforeHost, hostRun_of_idle (by simpa using ended.1)]
  simpa [hostEnded] using ended

theorem hostLineHeld_tick {s : State} (held : hostLineHeld s = true) : hostLineHeld (tick s) = true :=
  have keeps := keptByMoves_hostLineHeld
  tick_induct keeps.elapse keeps.deviceTransmit keeps.hostTransmit keeps.deviceMove keeps.hostRun held

/-- Each tick lowers the wait left by one at least, so that it ends the transaction. -/
theorem hostEnded_ticks {m : Nat} {s : State} (held : hostLineHeld s = true) (busy : s.host.state ≠ .idle)
    (left : hostWaitLeft s ≤ m) : ∃ n, n ≤ m ∧ hostEnded (ticks n s) := by
  induction m generalizing s with
  | zero => have := (hostWaitLeft_bounds held busy).1; omega
  | succ m ih =>
    obtain ended | ⟨busy', left'⟩ := endsWithin_tick held busy
    · exact ⟨1, by omega, ended⟩
    · obtain ⟨n, hn, ended⟩ := ih (hostLineHeld_tick held) busy' (by omega)
      exact ⟨n + 1, by omega, ended⟩

/-! ### The blind wait over ticks (45 R206) -/

/-- The host is in the blind wait with its line open and has counted `n` ticks of it. -/
structure Blind (n : Nat) (s : State) : Prop where
  state : s.host.state = .blind
  timer : s.host.timer = n
  lineOpen : s.host.lineOpen = true

theorem Blind.hostRun {s : State} {n : Nat} (h : Blind n s) (hn : n < s.cfg.blindWaitUs) :
    Blind (n + 1) (hostRun s) := by
  rw [hostRun_of_blind h.state (by rwa [h.timer])]
  exact ⟨h.state, congrArg (· + 1) h.timer, h.lineOpen⟩

theorem blind_tick {s : State} {n : Nat} (h : Blind n s) (hn : n < s.cfg.blindWaitUs) : Blind (n + 1) (tick s) := by
  have before : Blind n (beforeHost s) := ⟨by simpa using h.state, by simpa using h.timer, by simpa using h.lineOpen⟩
  rw [tick_eq_beforeHost]
  exact before.hostRun (by simpa using hn)

theorem blind_ticks {s : State} {k : Nat} (h : Blind k s) (n : Nat) (room : k + n ≤ s.cfg.blindWaitUs) :
    Blind (k + n) (ticks n s) := by
  induction n generalizing k s with
  | zero => exact h
  | succ n ih =>
    have rest := ih (blind_tick h (by omega)) (by simpa using (by omega : k + 1 + n ≤ s.cfg.blindWaitUs))
    rwa [Nat.add_assoc, Nat.add_comm 1 n] at rest

/-! ### A tick with its keys (45 R201)

With no reset to come a tick of `advance` is one of `tick` unless a key is taken in it. -/

theorem openKey_of_noDueKey {s : State} (h : dueKey s = none) : openKey s = s := by simp [openKey, h]

theorem takeKey_of_noDueKey {s : State} (h : dueKey s = none) : takeKey s = s := by
  rw [takeKey, openKey_of_noDueKey h]
  obtain ⟨idle, e⟩ | ⟨-, e⟩ := firstPoll_cases s s <;> rw [e]
  exact hostRun_of_idle idle

theorem runTurn_reset_of_noReset (rest : List Move) {u : State} (quiet : noReset u = true) :
    runTurn (.reset :: rest) u = runTurn rest u := congrArg (runTurn rest) (takeReset_of_noReset quiet)

theorem runTurn_key_of_noDueKey (rest : List Move) {u : State} (due : dueKey u = none) :
    runTurn (.key :: rest) u = runTurn rest u := by
  rw [runTurn, openKey_of_noDueKey due, takeKey_of_noDueKey due, ite_self]

theorem dueKey_of_busy {s : State} (busy : s.host.state ≠ .idle) : dueKey s = none := by
  unfold dueKey
  split <;> simp [busy]

/-- Since `s` a key was taken: the script of keys is only ever used from its head. -/
def KeyTaken (s u : State) : Prop := u.env.keys.length < s.env.keys.length

theorem keyTaken_openKey {s : State} {k : KeyPress} (h : dueKey s = some k) : KeyTaken s (openKey s) := by
  obtain ⟨-, -, later, keys⟩ := dueKey_some h
  have dropped : (openKey s).env.keys = (dropKey s).env.keys := by
    obtain ⟨none, -⟩ | ⟨_, -, e | ⟨i, -, e⟩⟩ := openKey_cases s
    · simp [h] at none
    · rw [e]
    · rw [e, (openCommand_hostOnly i _).keys]
  rw [KeyTaken, dropped]
  simp [dropKey, keys]

theorem keyTaken_takeKey {s : State} {k : KeyPress} (h : dueKey s = some k) : KeyTaken s (takeKey s) := by
  rw [takeKey, KeyTaken, (firstPoll_hostOnly s _).keys]
  exact keyTaken_openKey h

@[simp] theorem deviceTransmit_keys (s : State) : (deviceTransmit s).env.keys = s.env.keys := by rw [deviceTransmit_eq]
@[simp] theorem hostTransmit_keys (s : State) : (hostTransmit s).env.keys = s.env.keys := by rw [hostTransmit_eq]
@[simp] theorem deviceRun_keys (s : State) : (deviceRun s).env.keys = s.env.keys := (deviceRun_deviceOnly s).keys
@[simp] theorem hostRun_keys (s : State) : (hostRun s).env.keys = s.env.keys := (hostRun_hostOnly s).keys
@[simp] theorem tick_keys (s : State) : (tick s).env.keys = s.env.keys := by simp [tick_eq_beforeHost]

/-- A key once taken never comes back. -/
theorem keptByMoves_keyTaken (s : State) : KeptByMoves (KeyTaken s) where
  elapse _ h := h
  deviceTransmit _ h := by simpa [KeyTaken] using h
  hostTransmit _ h := by simpa [KeyTaken] using h
  deviceMove u h := by simpa [KeyTaken, (deviceMove_deviceOnly u).keys] using h
  hostRun _ h := by simpa [KeyTaken] using h
  takeReset u h := by
    obtain e | ⟨r, rest, -, -, e⟩ := takeReset_cases u <;> rw [e]
    · exact h
    · cases r.node <;> exact h
  openKey u h := by
    cases due : dueKey u with
    | none => rwa [openKey_of_noDueKey due]
    | some k => exact (keyTaken_openKey due).trans h
  beginCycle _ _ _ h := h

theorem KeptByMoves.runTurn {P : State → Prop} (k : KeptByMoves P) (t : List Move) {s : State} (h : P s) :
    P (runTurn t s) :=
  runTurn_induct k.deviceTransmit k.hostTransmit k.deviceMove k.hostRun k.takeReset k.openKey t h

/-- With no reset to come a turn is that of its agents, or a key is taken in it. -/
theorem runTurn_agents_or_keyTaken (t : List Move) {s u : State} (quiet : noReset u = true)
    (keys : u.env.keys = s.env.keys) : runTurn t u = runTurn (t.filter Move.isAgent) u ∨ KeyTaken s (runTurn t u) := by
  have keeps := keptByMoves_noReset
  induction t generalizing u with
  | nil => exact .inl rfl
  | cons m rest ih =>
    cases m with
    | duart => exact ih (keeps.deviceTransmit u quiet) (by simpa using keys)
    | hostUart => exact ih (keeps.hostTransmit u quiet) (by simpa using keys)
    | dev => exact ih (deviceRun_induct keeps.deviceMove quiet) (by simpa using keys)
    | host => exact ih (keeps.hostRun u quiet) (by simpa using keys)
    | reset =>
      rw [runTurn_reset_of_noReset rest quiet]
      exact ih quiet keys
    | key =>
      cases due : dueKey u with
      | none =>
        rw [runTurn_key_of_noDueKey rest due]
        exact ih quiet keys
      | some k =>
        have taken : KeyTaken s (if rest.contains .host then openKey u else takeKey u) := by
          rw [KeyTaken, ← keys]
          split
          · exact keyTaken_openKey due
          · exact keyTaken_takeKey due
        exact .inr ((keptByMoves_keyTaken s).runTurn rest taken)

theorem advance_eq_tick_or_keyTaken {s : State} (quiet : noReset s = true) :
    advance s = tick s ∨ KeyTaken s (advance s) :=
  runTurn_agents_or_keyTaken (nextTurn s) (u := elapse s) quiet rfl

theorem pollInputs_eq_or_keyTaken {s : State} (quiet : noReset s = true) :
    pollInputs s = s ∨ KeyTaken s (pollInputs s) := by
  rw [pollInputs_of_noReset quiet]
  cases due : dueKey s with
  | none => exact .inl (takeKey_of_noDueKey due)
  | some k => exact .inr (keyTaken_takeKey due)

theorem pollInputs_of_busy {s : State} (quiet : noReset s = true) (busy : s.host.state ≠ .idle) : pollInputs s = s := by
  rw [pollInputs_of_noReset quiet, takeKey_of_noDueKey (dueKey_of_busy busy)]

/-! ### What a step does to a busy host -/

/-- With no reset to come and the host busy, a step is a request's cycle or a tick. -/
theorem step_cases_of_busy {s t : State} (quiet : noReset s = true) (busy : s.host.state ≠ .idle)
    (hst : step s = .next t) : configLegal s.cfg = true ∧ (t = deviceCycle s.duart.rxd s ∨ t = advance s) := by
  obtain ⟨legal, ⟨-, -, e⟩ | ⟨-, pending, -⟩ | ⟨-, -, ⟨k, due⟩, -⟩ | ⟨-, -, -, e⟩⟩ := step_cases hst
  · exact ⟨legal, .inl e⟩
  · simp [resetPending_of_noReset quiet] at pending
  · simp [dueKey_of_busy busy] at due
  · exact ⟨legal, .inr e⟩

/-- A step keeps a property that the host's side, time and the scripts of keys and resets decide at its start, and that
every tick with the inputs due before it keeps: the fetch of a request leaves all of these. -/
theorem step_keeps_of_busy {P : State → Prop} {s t : State} (quiet : noReset s = true) (busy : s.host.state ≠ .idle)
    (start : ∀ u, u.now = s.now → u.cfg = s.cfg → u.host = s.host → u.env.keys = s.env.keys → noReset u = true → P u)
    (ticked : ∀ u, P u → P (advance (pollInputs u))) (hst : step s = .next t) : P t := by
  obtain ⟨-, rfl | rfl⟩ := step_cases_of_busy quiet busy hst
  · have only := deviceRun_deviceOnly (beginCycle s.duart.rxd s)
    exact runToAwait_induct (fun u h _ => ticked u h) _
      (start _ only.now only.cfg only.host only.keys (by rw [noReset, only.resets]; exact quiet))
  · have next := ticked s (start s rfl rfl rfl rfl quiet)
    rwa [pollInputs_of_busy quiet busy] at next

/-- Time passes: a cycle takes at least the flights between the bytes of its response (44 R189). -/
theorem now_lt_of_step {s t : State} (quiet : noReset s = true) (busy : s.host.state ≠ .idle)
    (hst : step s = .next t) : s.now < t.now := by
  obtain ⟨legal, rfl | rfl⟩ := step_cases_of_busy quiet busy hst
  · obtain ⟨-, -, -, -, -, -, -, byteTime⟩ := (configLegal_iff s.cfg).1 legal
    obtain ⟨-, least, -⟩ := cycleTimeIsBounded s.duart.rxd s legal quiet
    omega
  · simp

/-! ### The end of a transaction over steps -/

/-- Since `s`, whose host was busy, either a key was taken, or the transaction has ended, or its wait left has fallen by
the time that passed. -/
structure Runs (s u : State) : Prop where
  quiet : noReset u = true
  later : s.now ≤ u.now
  runs : KeyTaken s u ∨ u.env.keys = s.env.keys ∧ hostLineHeld u = true
    ∧ (hostEnded u ∨ u.host.state ≠ .idle ∧ hostWaitLeft u + (u.now - s.now) ≤ hostWaitLeft s)

theorem runs_tick {s u : State} (h : Runs s u) (keys : u.env.keys = s.env.keys) : Runs s (tick u) := by
  obtain ⟨quiet, later, taken | ⟨-, held, ended | ⟨busy, left⟩⟩⟩ := h
  · simp [KeyTaken, keys] at taken
  · exact ⟨noReset_tick quiet, by simp; omega,
      .inr ⟨by simpa using keys, hostLineHeld_tick held, .inl (hostEnded_tick ended)⟩⟩
  · refine ⟨noReset_tick quiet, by simp; omega, .inr ⟨by simpa using keys, hostLineHeld_tick held, ?_⟩⟩
    have positive := (hostWaitLeft_bounds held busy).1
    refine (endsWithin_tick held busy).imp_right fun ⟨busy', left'⟩ => ⟨busy', ?_⟩
    rw [tick_now]
    omega

theorem runs_advance_pollInputs {s u : State} (h : Runs s u) : Runs s (advance (pollInputs u)) := by
  have keeps := keptByMoves_keyTaken s
  have quiet := noReset_advance (noReset_pollInputs h.quiet)
  have later : s.now ≤ (advance (pollInputs u)).now := by have := h.later; simp; omega
  obtain taken | ⟨keys, -⟩ := h.runs
  · exact ⟨quiet, later, .inl (keeps.advance (keeps.takeKey (keeps.takeReset u taken)))⟩
  have since {v : State} (taken : KeyTaken u v) : KeyTaken s v := by rwa [KeyTaken, ← keys]
  obtain e | taken := pollInputs_eq_or_keyTaken h.quiet
  · rw [e] at quiet later ⊢
    obtain e | taken := advance_eq_tick_or_keyTaken h.quiet
    · exact e ▸ runs_tick h keys
    · exact ⟨quiet, later, .inl (since taken)⟩
  · exact ⟨quiet, later, .inl (keeps.advance (since taken))⟩

theorem runs_step {s t : State} (held : hostLineHeld s = true) (busy : s.host.state ≠ .idle)
    (quiet : noReset s = true) (hst : step s = .next t) : Runs s t := by
  refine step_keeps_of_busy quiet busy (fun u now cfg host keys quiet => ?start) (fun u => runs_advance_pollInputs) hst
  case start =>
    have held' : hostLineHeld u = true := by rwa [hostLineHeld, host]
    exact ⟨quiet, now.ge, .inr ⟨keys, held', .inr ⟨by rwa [host], by simp [hostWaitLeft, host, cfg, now]⟩⟩⟩

/-! ### The blind wait over steps -/

/-- A turn with no more moves of the host than ticks are left of the blind wait is that of its agents: no host in the
blind wait takes a key. -/
theorem runTurn_of_blind (t : List Move) {u : State} {n : Nat} (quiet : noReset u = true) (h : Blind n u)
    (room : n + t.count .host ≤ u.cfg.blindWaitUs) : runTurn t u = runTurn (t.filter Move.isAgent) u := by
  have keeps := keptByMoves_noReset
  induction t generalizing n u with
  | nil => rfl
  | cons m rest ih =>
    cases m with
    | duart =>
      have blind : Blind n (deviceTransmit u) := by rw [deviceTransmit_eq]; exact ⟨h.state, h.timer, h.lineOpen⟩
      exact ih (keeps.deviceTransmit u quiet) blind (by simpa using room)
    | hostUart =>
      have blind : Blind n (hostTransmit u) := by rw [hostTransmit_eq]; exact ⟨h.state, h.timer, h.lineOpen⟩
      exact ih (keeps.hostTransmit u quiet) blind (by simpa using room)
    | dev =>
      have blind : Blind n (deviceRun u) := by rw [deviceRun_deviceOnly u]; exact ⟨h.state, h.timer, h.lineOpen⟩
      exact ih (deviceRun_induct keeps.deviceMove quiet) blind (by simpa using room)
    | host =>
      rw [List.count_cons_self] at room
      exact ih (keeps.hostRun u quiet) (h.hostRun (by omega)) (by rw [hostRun_cfg]; omega)
    | reset =>
      rw [runTurn_reset_of_noReset rest quiet]
      exact ih quiet h (by simpa using room)
    | key =>
      rw [runTurn_key_of_noDueKey rest (dueKey_of_busy (by simp [h.state]))]
      exact ih quiet h (by simpa using room)

/-- The host's program moves once in a turn. -/
theorem count_host_nextTurn (s : State) : (nextTurn s).count .host = 1 := by
  have once : ∀ t ∈ agentOrders, t.count .host = 1 := by decide
  rw [← List.count_filter (p := Move.isAgent) rfl]
  exact once _ (nextTurn_legal s)

theorem advance_of_blind {s : State} {n : Nat} (quiet : noReset s = true) (h : Blind n s)
    (hn : n < s.cfg.blindWaitUs) : advance s = tick s :=
  runTurn_of_blind (nextTurn s) (u := elapse s) quiet ⟨h.state, h.timer, h.lineOpen⟩
    (by rw [count_host_nextTurn]; exact hn)

/-- Since `s`, in whose blind wait `n` ticks had been counted, every tick was one more of it, as far as it goes. -/
structure StaysBlind (n : Nat) (s u : State) : Prop where
  quiet : noReset u = true
  later : s.now ≤ u.now
  cfg : u.cfg = s.cfg
  blind : n + (u.now - s.now) ≤ s.cfg.blindWaitUs → Blind (n + (u.now - s.now)) u

theorem staysBlind_advance_pollInputs {n : Nat} {s u : State} (h : StaysBlind n s u) :
    StaysBlind n s (advance (pollInputs u)) := by
  have later := h.later
  refine ⟨noReset_advance (noReset_pollInputs h.quiet), by simp; omega, by simpa using h.cfg, fun room => ?_⟩
  rw [advance_now, pollInputs_now] at room ⊢
  have blind := h.blind (by omega)
  have left : n + (u.now - s.now) < u.cfg.blindWaitUs := by rw [h.cfg]; omega
  rw [pollInputs_of_busy h.quiet (by simp [blind.state]), advance_of_blind h.quiet blind left,
    show n + (u.now + 1 - s.now) = n + (u.now - s.now) + 1 by omega]
  exact blind_tick blind left

theorem staysBlind_step {n : Nat} {s t : State} (blind : Blind n s) (quiet : noReset s = true)
    (hst : step s = .next t) : StaysBlind n s t := by
  refine step_keeps_of_busy quiet (by simp [blind.state]) (fun u now cfg host keys quiet => ?start)
    (fun u => staysBlind_advance_pollInputs) hst
  case start =>
    have same : Blind n u := ⟨host ▸ blind.state, host ▸ blind.timer, host ▸ blind.lineOpen⟩
    exact ⟨quiet, now.ge, cfg, fun _ => by simpa [now] using same⟩

/-- Settles O44: over ticks by the wait left, over steps with the keys taken beside it, and the blind wait of both. -/
theorem everyTransactionEnds : Obligations.EveryTransactionEnds := by
  refine ⟨fun s held busy => ?ticks, fun s t held busy quiet hst => ?steps, fun s n state opened room => ?blindTicks,
    fun s t state opened quiet hst room => ?blindSteps⟩
  case ticks => exact hostEnded_ticks held busy (hostWaitLeft_bounds held busy).2
  case steps =>
    refine ⟨now_lt_of_step quiet busy hst, fun keys => ?_⟩
    obtain taken | ⟨-, -, ran⟩ := (runs_step held busy quiet hst).runs
    · simp [KeyTaken, keys] at taken
    · exact ran
  case blindTicks =>
    have blind := blind_ticks ⟨state, rfl, opened⟩ n room
    exact ⟨blind.state, blind.timer, blind.lineOpen⟩
  case blindSteps =>
    have blind := (staysBlind_step ⟨state, rfl, opened⟩ quiet hst).blind room
    exact ⟨blind.state, blind.timer, blind.lineOpen⟩

end Sys2Proof.Machine

/-! What an error leaves behind, and that nothing stops the machine: the record of a read by its result, a device that
waits for a request, and the step that is always there (spec/60_exceptions.md R243, R251, R253). -/

namespace Sys2Proof.Machine

/-! ### Every legal machine goes on (60 R243, R254) -/

/-- Settles O58: `step_answers`, which has a case for each thing that a step can find due. -/
theorem nothingIsFatal : Obligations.NothingIsFatal := fun _ legal => step_answers legal

/-! ### A tick of a device that waits for a request (60 R251, 70 R278) -/

/-- A free device transmitter stays free until the device program writes to it. -/
theorem beforeDevice_of_free {s : State} (free : s.duart.txReady = true) : (beforeDevice s).duart.txReady = true := by
  rw [beforeDevice_txReady, deviceTransmit, if_pos (show (elapse s).duart.txReady = true from free)]
  exact free

/-- A byte latched in the device stays through the host transmitter's tick, whatever arrives (43 R163). -/
theorem hostTransmit_keeps_latched {s : State} (full : s.duart.rxFull = true) :
    (hostTransmit s).duart = s.duart := by
  obtain ⟨-, e⟩ | ⟨-, -, -, e⟩ | ⟨-, -, -, e⟩ | ⟨-, -, e⟩ := hostTransmit_cases s <;> rw [e]
  · rfl
  · exact deliverH2D_keeps_latched _ (htxDone s) full

theorem beforeDevice_keeps_latched {s : State} (full : s.duart.rxFull = true) :
    (beforeDevice s).duart.rxFull = true ∧ (beforeDevice s).duart.rxd = s.duart.rxd := by
  have full' : (deviceTransmit (elapse s)).duart.rxFull = true := by rw [deviceTransmit_eq]; exact full
  rw [beforeDevice, hostTransmit_keeps_latched full']
  exact ⟨full', by rw [deviceTransmit_eq]; rfl⟩

/-- The program of a device that waits for a request makes no move at a tick. -/
theorem deviceRun_beforeDevice_of_awaiting {s : State} (await : s.dev.state = .awaitRequest) :
    deviceRun (beforeDevice s) = beforeDevice s := deviceRun_of_awaiting (by simpa using await)

/-- Settles O34: with no move of the device program, only time and the two transmitters touch the device's side. -/
theorem awaitingDeviceStandsStill : Obligations.AwaitingDeviceStandsStill := by
  intro s await
  rw [tick_dec, tick_dev, tick_zact, tick_duart, deviceRun_beforeDevice_of_awaiting await]
  exact ⟨beforeDevice_dec s, beforeDevice_dev s, beforeDevice_zact s, beforeDevice_txd s, beforeDevice_of_free,
    beforeDevice_keeps_latched⟩

/-! ### The record of a read (60 R253) -/

/-- The bits received, the timer and the checksum of a read that is over, by its result. -/
def ReadRecord (c : Config) (d : Decoder) : Prop :=
  match d.result with
  | .noResponse => d.bitIdx = 0 ∧ d.tmrCnt = c.timerBoundUs
  | .timingTimeout => d.bitIdx < c.nBits ∧ d.tmrCnt = c.timerBoundUs
  | .checksumError => d.bitIdx = c.nBits ∧ checksumOk d.frame = false
  | .ok => d.bitIdx = c.nBits ∧ checksumOk d.frame = true

/-- Inside `read_sensor` the timer of a running measurement is within its bound, and the record of a read that is over
stands. -/
structure ReadFits (c : Config) (d : Decoder) : Prop where
  reads : d.state ≠ .idle
  timer : d.state.measures = true → d.tmrCnt ≤ c.timerBoundUs
  record : d.state = .done → ReadRecord c d

section ReadFits

variable {c : Config} {s : State}

theorem readFits_measureStart {d : DecState} (hd : d.measures = true) : ReadFits c (measureStart d s).dec where
  reads := (ne_of_measures hd).1
  timer _ := Nat.zero_le _
  record done := absurd done (ne_of_measures hd).2

theorem readFits_finishRead {r : DecResult} (record : ReadRecord c (finishRead r s).dec) :
    ReadFits c (finishRead r s).dec where
  reads := by simp
  timer measures := by simp [DecState.measures] at measures
  record _ := record

theorem readFits_nextBit : ReadFits c (nextBit s).dec := by
  obtain ⟨-, e⟩ | ⟨-, e⟩ := nextBit_cases s <;> rw [e]
  · exact readFits_measureStart rfl
  · exact ⟨by simp, by simp [DecState.measures], by simp⟩

theorem readFits_startSignal (hd : s.dec.state = .start) : ReadFits c (startSignal s).dec := by
  obtain ⟨-, e⟩ | ⟨-, e⟩ := startSignal_cases s <;> rw [e]
  · exact ⟨by simp [hd], by simp [hd, DecState.measures], by simp [hd]⟩
  · exact readFits_measureStart rfl

/-- A measurement counts on below its bound, fails exactly at it, or returns and another phase follows. -/
theorem readFits_onMeasure (h : ReadFits s.cfg s.dec) (measures : s.dec.state.measures = true) {level : Level}
    {fail : DecResult} {go : Nat → State → State}
    (failed : s.dec.tmrCnt = s.cfg.timerBoundUs → ReadRecord s.cfg (finishRead fail s).dec)
    (goes : ∀ d, ReadFits s.cfg (go d s).dec) : ReadFits s.cfg (onMeasure (measurePoll level s) fail go s).dec := by
  obtain ⟨poll, e⟩ | ⟨d, -, e⟩ | ⟨poll, e⟩ := onMeasure_cases (measurePoll level s) fail go s <;> rw [e]
  · exact ⟨h.reads, fun _ => (measurePoll_none poll).1, fun done => absurd done (ne_of_measures measures).2⟩
  · exact goes d
  · exact readFits_finishRead (failed ((h.timer measures).antisymm (measurePoll_sentinel poll)))

/-- A read that fails in the handshake has no bit, one that fails in a bit has not all of them, and one that comes to
the check has them all. -/
theorem readFits_decoderMove (place : decoderInPlace s = true) (h : ReadFits s.cfg s.dec) :
    ReadFits s.cfg (decoderMove s).dec := by
  obtain ⟨-, bits⟩ := bitsFit_of_inPlace place
  obtain ⟨hd, e⟩ | ⟨hd, e⟩ | ⟨hd, e⟩ | ⟨hd, e⟩ | ⟨hd, e⟩ | ⟨hd, e⟩ | ⟨hd, e⟩ | ⟨hd, e⟩ | ⟨hd, e⟩ :=
    decoderMove_cases s <;> rw [e] <;> simp only [hd] at bits
  · exact absurd hd h.reads
  · exact readFits_startSignal hd
  · exact readFits_onMeasure h (by rw [hd]; rfl) (fun bound => ⟨bits, bound⟩) fun _ => readFits_measureStart rfl
  · exact readFits_onMeasure h (by rw [hd]; rfl) (fun bound => ⟨bits, bound⟩) fun _ => readFits_measureStart rfl
  · exact readFits_onMeasure h (by rw [hd]; rfl) (fun bound => ⟨bits, bound⟩) fun _ => readFits_nextBit
  · exact readFits_onMeasure h (by rw [hd]; rfl) (fun bound => ⟨bits, bound⟩) fun _ => readFits_measureStart rfl
  · exact readFits_onMeasure h (by rw [hd]; rfl) (fun bound => ⟨bits, bound⟩) fun _ => readFits_nextBit
  · obtain ⟨good, e⟩ | ⟨bad, e⟩ := checkFrame_cases s <;> rw [e]
    · exact readFits_finishRead ⟨bits, good⟩
    · exact readFits_finishRead ⟨bits, bad⟩
  · exact h

end ReadFits

/-- Inside `read_sensor` the read fits, and after it its record stands. -/
structure ReadRecorded (c : Config) (u : State) : Prop where
  cfg : u.cfg = c
  place : decoderInPlace u = true
  inside : InRead u.dev → ReadFits c u.dec
  after : ¬ InRead u.dev → ReadRecord c u.dec

section ReadRecorded

variable {c : Config} {u v : State}

theorem ReadRecorded.congr (hc : v.cfg = u.cfg) (hd : v.dec = u.dec)
    (hv : v.dev.state = u.dev.state ∧ v.dev.pos = u.dev.pos) (h : ReadRecorded c u) : ReadRecorded c v := by
  have same : InRead v.dev ↔ InRead u.dev := by
    obtain ⟨state, pos⟩ := hv
    rw [InRead, InRead, state, pos]
  refine ⟨hc.trans h.cfg, decoderInPlace_congr h.place hc (by simp [hd]) hv, ?_, ?_⟩ <;> rw [same, hd]
  · exact h.inside
  · exact h.after

theorem readRecorded_deviceMove (h : ReadRecorded c u) : ReadRecorded c (deviceMove u) := by
  have cfg : (deviceMove u).cfg = c := (deviceMove_deviceOnly u).cfg.trans h.cfg
  have place := decoderInPlace_deviceMove h.place
  by_cases inRead : InRead u.dev
  swap
  · obtain ⟨same, out⟩ := deviceMove_outside inRead
    exact ⟨cfg, place, fun inRead' => absurd inRead' out, fun _ => same ▸ h.after inRead⟩
  have fits := h.inside inRead
  obtain ⟨-, e⟩ | ⟨-, done, e⟩ | ⟨-, -, e⟩ := deviceMove_inRead inRead
  · rwa [e]
  · rw [e] at cfg place ⊢
    refine ⟨cfg, place, fun inRead' => ?_, fun _ => ?_⟩
    · rw [takeResult_dev] at inRead'
      simp [InRead] at inRead'
    · rw [takeResult_dec]
      exact fits.record done
  · rw [e] at cfg place ⊢
    have stays : InRead (decoderMove u).dev := by rw [decoderMove_dev]; exact inRead
    refine ⟨cfg, place, fun _ => ?_, fun out => absurd stays out⟩
    rw [← h.cfg] at fits ⊢
    exact readFits_decoderMove h.place fits

/-- The fetch of a request begins a read, whose timer no measurement has used yet (41 R121). -/
theorem readRecorded_beginCycle (b : Byte) (s : State) : ReadRecorded s.cfg (beginCycle b s) where
  cfg := rfl
  place := (readWithin_beginCycle b s).place
  inside _ := ⟨by simp, by simp [DecState.measures], by simp⟩
  after out := absurd ⟨rfl, rfl⟩ out

end ReadRecorded

/-- Settles O26: every move of the cycle keeps `ReadRecorded`, and a device back in `AwaitRequest` has left its read. -/
theorem errorRecordOfARead : Obligations.ErrorRecordOfARead := by
  intro b s legal noRst
  have recorded : ReadRecorded s.cfg (deviceCycle b s) :=
    deviceCycle_induct (P := ReadRecorded s.cfg) (fun same h => h.congr same.cfg same.dec (by simp [same.dev]))
      (fun _ => readRecorded_deviceMove) (fun _ _ _ h => h.congr (by simp) (by simp) (by simp)) legal noRst
      (readRecorded_beginCycle b s)
  exact recorded.after (by simp [InRead, deviceCycle_awaits b legal noRst])

end Sys2Proof.Machine

/-! Reset (spec/70_reset_and_hazards.md): the table of reset values, and that a due reset is that of one node alone. -/

namespace Sys2Proof.Machine

/-! ### The reset table (70 R260) -/

/-- Settles O54: `State.resetWith` holds the table's entries as they stand; `TEMP_TENTHS` reads as its parameter since
its twelve bits hold every legal one. -/
theorem resetTable : Obligations.ResetTable := by
  intro c
  refine ⟨rfl, toInt_tempResetTenths c, rfl, rfl, rfl, rfl, rfl, rfl, rfl, rfl, rfl, rfl, rfl, rfl, rfl, rfl, rfl, rfl,
    rfl, rfl, rfl, ?ubrr, rfl, rfl, rfl, rfl⟩
  case ubrr =>
    rintro rfl
    rfl

/-! ### A due reset (70 R261; log 16) -/

section ResetDue

variable {s : State} {r : ResetEvent} {later : List ResetEvent}

theorem resetPending_of_due (hs : s.env.resets = r :: later) (due : r.tick ≤ s.now) : resetPending s = true := by
  rw [resetPending, hs]
  exact decide_eq_true due

theorem takeReset_of_due (hs : s.env.resets = r :: later) (due : r.tick ≤ s.now) :
    takeReset s = resetNode r.node { s with env.resets := later } := by
  rw [takeReset, hs]
  exact if_pos due

theorem step_of_resetPending (hc : configLegal s.cfg = true) (hr : requestPending s = false)
    (hp : resetPending s = true) : step s = .next (takeReset s) := by
  simp [step, hc, hr, hp]

/-- With no request latched, a due reset is the whole of the step: the reset of its node, and one event less to come. -/
theorem step_of_resetDue (hc : configLegal s.cfg = true) (hr : requestPending s = false)
    (hs : s.env.resets = r :: later) (due : r.tick ≤ s.now) :
    step s = .next (resetNode r.node { s with env.resets := later }) := by
  rw [step_of_resetPending hc hr (resetPending_of_due hs due), takeReset_of_due hs due]

end ResetDue

/-- `LOG` persists over a start of the host process (10 R50; log 14). -/
theorem hostReset_log (s : State) : (hostReset s).out.log = s.out.log := rfl

/-- Settles O55: the step is the reset of the event's node, so that what it leaves alone is what `deviceReset` or
`hostReset` leaves alone. -/
theorem resetsAreIndependent : Obligations.ResetsAreIndependent := by
  intro s r later hc hr hs due
  have stepped := step_of_resetDue hc hr hs due
  refine ⟨fun device => ?device, fun host => ?host⟩
  case device =>
    rw [device] at stepped
    exact stepped
  case host =>
    rw [host] at stepped
    exact ⟨_, stepped, hostReset_host _, hostReset_line _, hostReset_env _, hostReset_log _, hostReset_dec _,
      hostReset_dev _, hostReset_zact _, hostReset_duart _, hostReset_cfg _, hostReset_now _⟩

end Sys2Proof.Machine
